-- ==== Sys2Proof/Word.lean ====
section
/-!
DEFINITION. The word and byte types of the core (spec 00_scope.md R6, R7): bit 0 is the least significant bit and every
value is unsigned. `a ⊞ b` of R8 is `+` on `Word` (it wraps mod 2^32) and `⊕` is `^^^`.
-/

namespace Sys2Proof

/-- A 32-bit word (00_scope.md R6, "word width"). -/
abbrev Word := BitVec 32

/-- A byte (00_scope.md R9). -/
abbrev Byte := BitVec 8

end Sys2Proof
end

