-- ==== Sys2Proof/Config.lean ====
section
/-!
DEFINITION. What the spec leaves OPEN or free: constants with no body, so that no proof can lean on a value.
The third open parameter, LAT (00_scope.md R6), needs no constant: a completion delay is a schedule (assumption log 6).
-/

namespace Sys2Proof

/-- CORE_BASE, the byte address of the register window: a platform parameter, OPEN (20_memory.md R50; log 5). -/
opaque Config.coreBase : Nat

/-- The value of draw number `n`: "a free 32-bit value under no law" (00_scope.md R11, 93_implementation_defined.md I1;
log 4). State counts the draws, so every read that draws gets a value of its own. -/
opaque Config.draw (n : Nat) : Word

end Sys2Proof
end

