-- ==== Sys2Proof/Machine/Bytes.lean ====
section
/-!
DEFINITION. Word operations and byte/word conversions, all little-endian (spec 00_scope.md R8, R9).
-/

namespace Sys2Proof

/-- `rotl(a, n)`, circular left rotation, for 0 < n < 32 (00_scope.md R8; the formula is the spec's own general-knowledge
passage G4, log 18). -/
def rotl (a : Word) (n : Nat) : Word :=
  (a <<< n) ||| (a >>> (32 - n))

/-- `rotr(x, n) = rotl(x, 32 − n)` (40_quarter_round.md R102). -/
def rotr (a : Word) (n : Nat) : Word :=
  rotl a (32 - n)

/-- `LE32(b0, b1, b2, b3)` (00_scope.md R9). -/
def le32 (b0 b1 b2 b3 : Byte) : Word :=
  BitVec.ofNat 32 (b0.toNat + 2 ^ 8 * b1.toNat + 2 ^ 16 * b2.toNat + 2 ^ 24 * b3.toNat)

/-- `bytes32(w)`, least significant byte first (00_scope.md R9). -/
def bytes32 (w : Word) : List Byte :=
  [w.extractLsb' 0 8, w.extractLsb' 8 8, w.extractLsb' 16 8, w.extractLsb' 24 8]

/-- `LEW(w0, w1, …) = Σ_i 2^(32·i)·w_i` (00_scope.md R9). -/
def lew : List Word → Nat
  | [] => 0
  | w :: ws => w.toNat + 2 ^ 32 * lew ws

/-- `words_k(v)[i]`, bits 32i+31 down to 32i of `v` (00_scope.md R9). -/
def wordAt {n : Nat} (v : BitVec n) (i : Nat) : Word :=
  v.extractLsb' (32 * i) 32

/-- The word whose little-endian bytes are bytes 4i .. 4i+3 of a byte string (10_state.md R24, R25); bytes past the end
count as 0 (30_encoding.md R87 pads a chunk with zero bytes; log 20). -/
def wordOfBytes (bs : List Byte) (i : Nat) : Word :=
  le32 (bs.getD (4 * i) 0) (bs.getD (4 * i + 1) 0) (bs.getD (4 * i + 2) 0) (bs.getD (4 * i + 3) 0)

end Sys2Proof
end

