-- ==== Sys2Proof/Syntax.lean ====
section
/-!
DEFINITION. The commands of the core, one constructor per row of spec/opcode_table.json (30_encoding.md R82).
Operands are those of R81: a state index is one of 0..15, a length field is five bits wide (0..31). Which operand
values are legal is WellFormed.lean's matter.
-/

namespace Sys2Proof

inductive Instr where
  /-- CLRERR, OP 0x01 (45_control.md R180). -/
  | clrerr
  /-- SRST, OP 0x02 (45_control.md R181). -/
  | srst
  /-- CC_INIT, OP 0x10 (41_chacha_block.md R120). -/
  | ccInit
  /-- CC_QR, OP 0x11, on the state slots A, B, C, D (40_quarter_round.md R101). -/
  | ccQr (a b c d : Fin 16)
  /-- CC_DROUND, OP 0x12 (41_chacha_block.md R122). -/
  | ccDround
  /-- CC_ROUNDS, OP 0x13 (41_chacha_block.md R123). -/
  | ccRounds
  /-- CC_FEEDFWD, OP 0x14 (41_chacha_block.md R125). -/
  | ccFeedfwd
  /-- CC_BLOCK, OP 0x15 (41_chacha_block.md R126). -/
  | ccBlock
  /-- P_KEY, OP 0x20 (42_poly1305_key.md R150). -/
  | pKey
  /-- P_BLOCK, OP 0x21, of `len` bytes (43_poly1305_multiplier.md R160). -/
  | pBlock (len : Fin 32)
  /-- P_FINAL, OP 0x22 (44_poly1305_finalizer.md R170). -/
  | pFinal
  deriving DecidableEq, Repr

end Sys2Proof
end

