-- ==== Sys2Proof/WellFormed.lean ====
section
/-!
DEFINITION. Which commands are legal (30_encoding.md R81, R83): the four slots of CC_QR are pairwise distinct, and the
length of P_BLOCK is 1..16. Every other operand value is legal.
-/

namespace Sys2Proof

/-- The four state indices are pairwise distinct (30_encoding.md R81; `|{a,b,c,d}| = 4` in R84). -/
abbrev SlotsDistinct (a b c d : Fin 16) : Prop :=
  a ≠ b ∧ a ≠ c ∧ a ≠ d ∧ b ≠ c ∧ b ≠ d ∧ c ≠ d

/-- The chunk length is legal: 1 ≤ L ≤ 16 (30_encoding.md R81). -/
abbrev LengthLegal (len : Fin 32) : Prop :=
  1 ≤ len.val ∧ len.val ≤ 16

/-- The command has legal operands (30_encoding.md R83). -/
def Instr.wellFormed : Instr → Bool
  | .ccQr a b c d => decide (SlotsDistinct a b c d)
  | .pBlock len => decide (LengthLegal len)
  | .clrerr => true
  | .srst => true
  | .ccInit => true
  | .ccDround => true
  | .ccRounds => true
  | .ccFeedfwd => true
  | .ccBlock => true
  | .pKey => true
  | .pFinal => true

end Sys2Proof
end

