-- ==== Sys2Proof/Decode.lean ====
section
/-!
DEFINITION. Decoding a command word (30_encoding.md R80 to R84), total and rejecting by code, and the encoder after it.
-/

namespace Sys2Proof

/-- The error codes of 60_exceptions.md R203 (0, none, and 7 to 15, never produced, have no constructor). -/
inductive ErrCode where
  /-- OP is not in the opcode map. -/
  | illegalOp
  /-- A reserved bit of a defined OP's format is set. -/
  | rsvdBits
  /-- CC_QR with indices that are not pairwise distinct. -/
  | qrAlias
  /-- P_BLOCK with L = 0 or L > 16. -/
  | badLen
  /-- A legal command for an engine that is busy. -/
  | busy
  /-- A write to an input register of a busy engine. -/
  | writeBusy
  deriving DecidableEq, Repr

/-- The code STATUS.ERR records (60_exceptions.md R203). -/
def ErrCode.code : ErrCode → BitVec 4
  | .illegalOp => 0x1#4
  | .rsvdBits => 0x2#4
  | .qrAlias => 0x3#4
  | .badLen => 0x4#4
  | .busy => 0x5#4
  | .writeBusy => 0x6#4

/-- `w[lo+len-1 : lo]` as a natural number below `2^len` (00_scope.md R7). -/
def bitField (w : Word) (lo len : Nat) : Fin (2 ^ len) :=
  (w.extractLsb' lo len).toFin

/-- The operand checks of 30_encoding.md R83 and R84: `QR_ALIAS` and `BAD_LEN`. -/
def operandError : Instr → Option ErrCode
  | .ccQr a b c d => if SlotsDistinct a b c d then none else some .qrAlias
  | .pBlock len => if LengthLegal len then none else some .badLen
  | .clrerr => none
  | .srst => none
  | .ccInit => none
  | .ccDround => none
  | .ccRounds => none
  | .ccFeedfwd => none
  | .ccBlock => none
  | .pKey => none
  | .pFinal => none

/-- The last checks of R84, once the opcode is known: the reserved bits from bit `lo` up are 0, then the operands are
legal. -/
def decodeChecked (w : Word) (lo : Nat) (i : Instr) : Except ErrCode Instr :=
  if w >>> lo ≠ 0 then .error .rsvdBits
  else
    match operandError i with
    | some e => .error e
    | none => .ok i

/-- `decode` of 30_encoding.md R84, in the order of checks it gives: the opcode, the reserved bits, the operands. -/
def decode (w : Word) : Except ErrCode Instr :=
  match (bitField w 0 8).val with
  | 0x01 => decodeChecked w 8 .clrerr
  | 0x02 => decodeChecked w 8 .srst
  | 0x10 => decodeChecked w 8 .ccInit
  | 0x11 => decodeChecked w 24 (.ccQr (bitField w 8 4) (bitField w 12 4) (bitField w 16 4) (bitField w 20 4))
  | 0x12 => decodeChecked w 8 .ccDround
  | 0x13 => decodeChecked w 8 .ccRounds
  | 0x14 => decodeChecked w 8 .ccFeedfwd
  | 0x15 => decodeChecked w 8 .ccBlock
  | 0x20 => decodeChecked w 8 .pKey
  | 0x21 => decodeChecked w 13 (.pBlock (bitField w 8 5))
  | 0x22 => decodeChecked w 8 .pFinal
  | _ => .error .illegalOp

/-- The four bytes of a word as they stand on the bus, byte lane 0 first (20_memory.md R52), decoded. -/
def decodeBytes (b0 b1 b2 b3 : Byte) : Except ErrCode Instr :=
  decode (le32 b0 b1 b2 b3)

/-- The command that the decoder reads from an opcode-table row's bits, laid out in the bus's byte order (log 17). -/
def decodeTableWord (nbits w : Nat) : Option Instr :=
  let v : Nat := w % 2 ^ nbits
  (decodeBytes (BitVec.ofNat 8 v) (BitVec.ofNat 8 (v / 2 ^ 8)) (BitVec.ofNat 8 (v / 2 ^ 16))
    (BitVec.ofNat 8 (v / 2 ^ 24))).toOption

/-- The OP byte of a command (30_encoding.md R82). -/
def opcode : Instr → BitVec 8
  | .clrerr => 0x01#8
  | .srst => 0x02#8
  | .ccInit => 0x10#8
  | .ccQr _ _ _ _ => 0x11#8
  | .ccDround => 0x12#8
  | .ccRounds => 0x13#8
  | .ccFeedfwd => 0x14#8
  | .ccBlock => 0x15#8
  | .pKey => 0x20#8
  | .pBlock _ => 0x21#8
  | .pFinal => 0x22#8

/-- The operand fields above OP, in the place 30_encoding.md R80 gives them: A = bits 11:8, B = 15:12, C = 19:16,
D = 23:20, or L = 12:8; all reserved bits 0. -/
def operandBits : Instr → Nat
  | .ccQr a b c d => 2 ^ 8 * a.val + 2 ^ 12 * b.val + 2 ^ 16 * c.val + 2 ^ 20 * d.val
  | .pBlock len => 2 ^ 8 * len.val
  | .clrerr => 0
  | .srst => 0
  | .ccInit => 0
  | .ccDround => 0
  | .ccRounds => 0
  | .ccFeedfwd => 0
  | .ccBlock => 0
  | .pKey => 0
  | .pFinal => 0

/-- `enc` of 30_encoding.md R86: the command word. -/
def encode (i : Instr) : Word :=
  BitVec.ofNat 32 ((opcode i).toNat + operandBits i)

/-- The mask of the command's row in the opcode map (30_encoding.md R82). -/
def tableMask : Instr → Word
  | .ccQr _ _ _ _ => 0xFF0000FF
  | .pBlock _ => 0xFFFFE0FF
  | .clrerr => 0xFFFFFFFF
  | .srst => 0xFFFFFFFF
  | .ccInit => 0xFFFFFFFF
  | .ccDround => 0xFFFFFFFF
  | .ccRounds => 0xFFFFFFFF
  | .ccFeedfwd => 0xFFFFFFFF
  | .ccBlock => 0xFFFFFFFF
  | .pKey => 0xFFFFFFFF
  | .pFinal => 0xFFFFFFFF

/-- The match value of the command's row: a word w selects the row when w & mask = match (30_encoding.md R82). -/
def tableMatch (i : Instr) : Word :=
  (opcode i).setWidth 32

end Sys2Proof
end

