-- ==== Sys2Proof/Machine/State.lean ====
section
/-!
DEFINITION. The state of the machine as plain data: the core's state exactly as 10_state.md R21 and R36 list it, the
HOSTs that drive it, and two fields of the model's own (`sched`, `draws`). Also the reasons a step can stop, and reset.
-/

namespace Sys2Proof.Machine

/-- A CE command, as CPEND holds it (10_state.md R36). -/
inductive CECmd where
  | init
  | qr (a b c d : Fin 16)
  | dround
  | rounds
  | feedfwd
  | block
  deriving DecidableEq, Repr

/-- A PE command, as PPEND holds it (10_state.md R36). -/
inductive PECmd where
  | key
  | block (len : Fin 32)
  | final
  deriving DecidableEq, Repr

/-- The registers of the window by name (20_memory.md R51). -/
inductive Reg where
  | cmd
  | status
  | ckey (i : Fin 8)
  | cctr
  | cnonce (i : Fin 3)
  | state (i : Fin 16)
  | saved (i : Fin 16)
  | pkey (i : Fin 8)
  | msg (i : Fin 4)
  | pr (i : Fin 4)
  | ps (i : Fin 4)
  | acc (i : Fin 5)
  | tag (i : Fin 4)
  deriving DecidableEq, Repr

/-- One bus access of HOST at a byte offset from CORE_BASE, `bytes` wide (20_memory.md R50, R53). Every width and offset
is a move HOST has (70_reset_and_hazards.md R241). The data of a write that is not 32 bits wide is never looked at. -/
inductive BusAccess where
  | read (off bytes : Nat)
  | write (off bytes : Nat) (v : Word)
  deriving DecidableEq, Repr

/-- One operation of a HOST program (30_encoding.md R86): a bus access (`wr`, `rd` and `cmd` are accesses), or
`bset REG, bit, label`, where a label is a position in the program (log 19). -/
inductive HostOp where
  | access (a : BusAccess)
  | bset (r : Reg) (bit : Fin 32) (target : Nat)
  deriving DecidableEq, Repr

/-- A HOST, one bus master (00_scope.md R3, 20_memory.md R67; log 9). -/
structure HostState where
  /-- Its program (30_encoding.md R86). -/
  program : List HostOp
  /-- The position of its next operation; at or past the end of the program the HOST has finished. -/
  pos : Nat
  /-- The values its `rd` operations returned, oldest first (30_encoding.md R86). -/
  trace : List Word
  /-- A bus error was recorded; never cleared (20_memory.md R53, 60_exceptions.md R204). -/
  fault : Bool
  deriving DecidableEq, Repr

/-- Who makes a move (00_scope.md R3): a HOST (by its place in `State.hosts`), an engine, or the reset input
(70_reset_and_hazards.md R230). -/
inductive Agent where
  | host (k : Nat)
  | ce
  | pe
  | resetInput
  deriving DecidableEq, Repr

/-- The machine. -/
structure State where
  /-- CMD, the last accepted command word (10_state.md R31). -/
  cmd : Word
  /-- ERR, the first rejection's code, 0 = none (10_state.md R32). -/
  err : BitVec 4
  /-- ERRMULT, a further rejection happened (10_state.md R32). -/
  errmult : Bool
  /-- CBUSY (10_state.md R30). -/
  cbusy : Bool
  /-- CPEND (10_state.md R30). -/
  cpend : Option CECmd
  /-- CKEY[0..7] (10_state.md R24). -/
  ckey : Vector Word 8
  /-- CCTR (10_state.md R24). -/
  cctr : Word
  /-- CNONCE[0..2] (10_state.md R24). -/
  cnonce : Vector Word 3
  /-- X[0..15], the registers STATE0..15 (10_state.md R22). -/
  x : Vector Word 16
  /-- SAVED[0..15] (10_state.md R23). -/
  saved : Vector Word 16
  /-- RC, the quarter-round sequencer, 0..80 (10_state.md R35; log 10). -/
  rc : Fin 81
  /-- PBUSY (10_state.md R30). -/
  pbusy : Bool
  /-- PPEND (10_state.md R30). -/
  ppend : Option PECmd
  /-- PKEY[0..7] (10_state.md R25). -/
  pkey : Vector Word 8
  /-- MSG[0..3] (10_state.md R25). -/
  msg : Vector Word 4
  /-- R, 128 bits, clamped (10_state.md R26). -/
  regR : BitVec 128
  /-- S, 128 bits (10_state.md R27). -/
  regS : BitVec 128
  /-- ACC, 130 bits (10_state.md R28). -/
  acc : BitVec 130
  /-- TAG, 128 bits (10_state.md R29). -/
  tag : BitVec 128
  /-- The HOSTs (00_scope.md R3, 20_memory.md R67; log 9). -/
  hosts : List HostState
  /-- The model's own field: the agents that make the next moves, in order (60_exceptions.md R206; log 1). -/
  sched : List Agent
  /-- The model's own field: how many draws have been taken (log 4). -/
  draws : Nat
  deriving DecidableEq, Repr

/-- Why a step can stop with a fault: there is no reason. "No command faults during execution" (60_exceptions.md R209),
a rejection is the ERR update of R202, and a bus error is recorded in `HostState.fault` (20_memory.md R53; log 7). -/
inductive Fault where
  deriving DecidableEq, Repr

/-- Why a step can be refused. -/
inductive Refusal where
  /-- Raised by `exec`'s arm of an instruction that has no meaning yet (safe); no arm raises it now. -/
  | notModelled (mnemonic : String)
  deriving DecidableEq, Repr

/-- A HOST with no program (log 9). -/
def HostState.idle : HostState where
  program := []
  pos := 0
  trace := []
  fault := false

/-- The machine right after reset: every register of 10_state.md R21 at its reset value 0, idle (70_reset_and_hazards.md
R230, R231). The HOST side and the model's own fields are as log 9, log 1 and log 4 name them. -/
def State.reset : State where
  cmd := 0
  err := 0
  errmult := false
  cbusy := false
  cpend := none
  ckey := Vector.replicate 8 0
  cctr := 0
  cnonce := Vector.replicate 3 0
  x := Vector.replicate 16 0
  saved := Vector.replicate 16 0
  rc := 0
  pbusy := false
  ppend := none
  pkey := Vector.replicate 8 0
  msg := Vector.replicate 4 0
  regR := 0
  regS := 0
  acc := 0
  tag := 0
  hosts := [HostState.idle]
  sched := []
  draws := 0

end Sys2Proof.Machine
end

