-- ==== Sys2Proof/Machine/Flags.lean ====
section
/-!
DEFINITION. The flags of the core: the STATUS view and the error bookkeeping (10_state.md R32, R33). No arithmetic result
sets a flag; only acceptance, completion, rejection, CLRERR, SRST and reset change them (R33).
-/

namespace Sys2Proof.Machine

/-- STATUS as the fields of 10_state.md R32, most significant first: 31:13 reserved, 12 ERRMULT, 11:8 ERR, 7:2 reserved,
1 PBUSY, 0 CBUSY. -/
def statusWord (s : State) : Word :=
  0#19 ++ BitVec.ofBool s.errmult ++ s.err ++ 0#6 ++ BitVec.ofBool s.pbusy ++ BitVec.ofBool s.cbusy

/-- ERR after a rejection with code `e`: the first code sticks (60_exceptions.md R202). -/
def errAfter (e : ErrCode) (s : State) : BitVec 4 :=
  if s.err = 0 then e.code else s.err

/-- ERRMULT after a rejection: set when ERR was not 0 (60_exceptions.md R202). -/
def errmultAfter (s : State) : Bool :=
  if s.err = 0 then s.errmult else true

end Sys2Proof.Machine
end

