-- ==== Sys2Proof/Machine/Operands.lean ====
section
/-!
DEFINITION. The operands of the commands: state slots (30_encoding.md R81), chunk bytes and the chunk value
(43_poly1305_multiplier.md R161), the key halves (42_poly1305_key.md R150).
-/

namespace Sys2Proof.Machine

/-- A quarter-round group: the indices that take the roles a, b, c, d (41_chacha_block.md R121). -/
structure Group where
  a : Fin 16
  b : Fin 16
  c : Fin 16
  d : Fin 16
  deriving DecidableEq, Repr

/-- `(X[A], X[B], X[C], X[D])`, all four read at once (40_quarter_round.md R101). -/
def readSlots (g : Group) (x : Vector Word 16) : Word × Word × Word × Word :=
  (x[g.a], x[g.b], x[g.c], x[g.d])

/-- `(X[A], X[B], X[C], X[D]) <- q`; the indices of a legal group are distinct, so the order of the four writes does not
matter (40_quarter_round.md R101). -/
def writeSlots (g : Group) (q : Word × Word × Word × Word) (x : Vector Word 16) : Vector Word 16 :=
  (((x.set g.a q.1).set g.b q.2.1).set g.c q.2.2.1).set g.d q.2.2.2

/-- Chunk byte j, `bytes32(MSG[j div 4])[j mod 4]` for 0 ≤ j < 16 (10_state.md R25). -/
def chunkByte (msg : Vector Word 4) (j : Nat) : Byte :=
  (bytes32 (msg.toList.getD (j / 4) 0)).getD (j % 4) 0

/-- `Σ_{j=0}^{n−1} 2^(8j)·byte_j` (43_poly1305_multiplier.md R161). -/
def chunkSum (msg : Vector Word 4) : Nat → Nat
  | 0 => 0
  | n + 1 => chunkSum msg n + 2 ^ (8 * n) * (chunkByte msg n).toNat

/-- `chunkval(MSG, L)`: the bytes read little-endian, then the marker byte 0x01 above them (43_poly1305_multiplier.md
R161). -/
def chunkVal (msg : Vector Word 4) (len : Nat) : Nat :=
  chunkSum msg len + 2 ^ (8 * len)

/-- `LEW(PKEY[0], PKEY[1], PKEY[2], PKEY[3])`, the source of R (42_poly1305_key.md R150). -/
def keyLow (pkey : Vector Word 8) : BitVec 128 :=
  BitVec.ofNat 128 (lew [pkey[0], pkey[1], pkey[2], pkey[3]])

/-- `LEW(PKEY[4], PKEY[5], PKEY[6], PKEY[7])`, the source of S (42_poly1305_key.md R150). -/
def keyHigh (pkey : Vector Word 8) : BitVec 128 :=
  BitVec.ofNat 128 (lew [pkey[4], pkey[5], pkey[6], pkey[7]])

end Sys2Proof.Machine
end

