-- ==== Sys2Proof/Machine/Ops.lean ====
section
/-!
DEFINITION. The named operations every meaning is written over: rejection (the core's one exception) and its clearing,
reset, acceptance and completion of commands, the registers of the window, the HOSTs, and who moves next.
-/

namespace Sys2Proof.Machine

/-! ## Rejection and recovery -/

/-- `raise Reject(e)` (60_exceptions.md R202): ERR takes the code if it was 0, otherwise ERRMULT becomes 1. "Nothing else
changes"; there is no trap entry (R207). -/
def reject (e : ErrCode) (s : State) : State :=
  { s with err := errAfter e s, errmult := errmultAfter s }

/-- What CLRERR does to the error record (45_control.md R180); the core has no other return from an error
(60_exceptions.md R208). -/
def clearErrors (s : State) : State :=
  { s with err := 0, errmult := false }

/-! ## Reset -/

/-- The reset of 70_reset_and_hazards.md R230. It is of the core's state: the HOSTs with their recorded faults, the
schedule and the count of draws are not in R21's list and stay (log 12). -/
def coreReset (s : State) : State :=
  { s with
    cmd := 0
    err := 0
    errmult := false
    cbusy := false
    cpend := none
    ckey := Vector.replicate 8 0
    cctr := 0
    cnonce := Vector.replicate 3 0
    x := Vector.replicate 16 0
    saved := Vector.replicate 16 0
    rc := 0
    pbusy := false
    ppend := none
    pkey := Vector.replicate 8 0
    msg := Vector.replicate 4 0
    regR := 0
    regS := 0
    acc := 0
    tag := 0 }

/-! ## Who moves next -/

/-- The HOST has performed its last operation. -/
def hostDone (h : HostState) : Bool :=
  decide (h.program.length ≤ h.pos)

/-- The agent that makes the next move: the schedule's next, and when the schedule is used up a busy engine before the
first HOST that has not finished (log 1, log 2). -/
def mover (s : State) : Agent :=
  match s.sched with
  | a :: _ => a
  | [] =>
    if s.cbusy then .ce
    else if s.pbusy then .pe
    else .host (s.hosts.findIdx fun h => !hostDone h)

/-- The move is made: the schedule's entry for it is used up. -/
def tick (s : State) : State :=
  { s with sched := s.sched.tail }

/-- A function of states applied to the next state, if there is one. -/
def onNext (f : State → State) : Host.Outcome State Fault Refusal → Host.Outcome State Fault Refusal
  | .next s => .next (f s)
  | .fault r => .fault r
  | .refused r => .refused r

/-! ## Acceptance and completion of commands -/

/-- A pending CE command as the instruction it is. -/
def ceInstr : CECmd → Instr
  | .init => .ccInit
  | .qr a b c d => .ccQr a b c d
  | .dround => .ccDround
  | .rounds => .ccRounds
  | .feedfwd => .ccFeedfwd
  | .block => .ccBlock

/-- A pending PE command as the instruction it is. -/
def peInstr : PECmd → Instr
  | .key => .pKey
  | .block len => .pBlock len
  | .final => .pFinal

/-- `accept(v, cmd)` of a CE command (60_exceptions.md R201): CMD <- v, CPEND <- cmd, CBUSY <- 1 (log 16 on v). -/
def acceptCE (c : CECmd) (s : State) : State :=
  { s with cmd := encode (ceInstr c), cpend := some c, cbusy := true }

/-- `accept(v, cmd)` of a PE command (60_exceptions.md R201). -/
def acceptPE (c : PECmd) (s : State) : State :=
  { s with cmd := encode (peInstr c), ppend := some c, pbusy := true }

/-- The end of CE's completion step: CPEND <- none, CBUSY <- 0 (20_memory.md R61); RC is 0 again (10_state.md R35). -/
def retireCE (s : State) : State :=
  { s with cpend := none, cbusy := false, rc := 0 }

/-- The end of PE's completion step: PPEND <- none, PBUSY <- 0 (20_memory.md R61). -/
def retirePE (s : State) : State :=
  { s with ppend := none, pbusy := false }

/-- What a CE command does when it is executed. With illegal operands it is rejected (30_encoding.md R83). In CE's own
move it completes: its rule `effect` is applied and CE is idle again (20_memory.md R61). In any other move it is being
issued: BUSY if CE is busy (60_exceptions.md R200), otherwise accepted (R201; log 11). -/
def ceCommand (c : CECmd) (effect : State → State) (s : State) : State :=
  match operandError (ceInstr c) with
  | some e => reject e s
  | none =>
    if mover s = .ce then retireCE (effect s)
    else if s.cbusy then reject .busy s
    else acceptCE c s

/-- What a PE command does when it is executed, as `ceCommand` (60_exceptions.md R200, R201, 20_memory.md R61; log 11). -/
def peCommand (c : PECmd) (effect : State → State) (s : State) : State :=
  match operandError (peInstr c) with
  | some e => reject e s
  | none =>
    if mover s = .pe then retirePE (effect s)
    else if s.pbusy then reject .busy s
    else acceptPE c s

/-! ## The registers of the window -/

/-- WIN_SIZE (00_scope.md R6). -/
def winSize : Nat := 0x200

/-- The offset of a register (20_memory.md R51). -/
def regOffset : Reg → Nat
  | .cmd => 0x000
  | .status => 0x004
  | .ckey i => 0x040 + 4 * i
  | .cctr => 0x060
  | .cnonce i => 0x064 + 4 * i
  | .state i => 0x080 + 4 * i
  | .saved i => 0x0C0 + 4 * i
  | .pkey i => 0x100 + 4 * i
  | .msg i => 0x120 + 4 * i
  | .pr i => 0x130 + 4 * i
  | .ps i => 0x140 + 4 * i
  | .acc i => 0x150 + 4 * i
  | .tag i => 0x170 + 4 * i

/-- The index of `off` in a row of `n` registers that starts at `base`, if it is the offset of one of them. -/
def slotAt (base n off : Nat) : Option (Fin n) :=
  if h : base ≤ off ∧ (off - base) % 4 = 0 ∧ (off - base) / 4 < n then some ⟨(off - base) / 4, h.2.2⟩ else none

/-- The register at an offset, row by row of the map in 20_memory.md R51; `none` at the offsets that map calls
reserved. -/
def regAt (off : Nat) : Option Reg :=
  ((slotAt 0x000 1 off).map fun _ => Reg.cmd) <|>
  ((slotAt 0x004 1 off).map fun _ => Reg.status) <|>
  ((slotAt 0x040 8 off).map Reg.ckey) <|>
  ((slotAt 0x060 1 off).map fun _ => Reg.cctr) <|>
  ((slotAt 0x064 3 off).map Reg.cnonce) <|>
  ((slotAt 0x080 16 off).map Reg.state) <|>
  ((slotAt 0x0C0 16 off).map Reg.saved) <|>
  ((slotAt 0x100 8 off).map Reg.pkey) <|>
  ((slotAt 0x120 4 off).map Reg.msg) <|>
  ((slotAt 0x130 4 off).map Reg.pr) <|>
  ((slotAt 0x140 4 off).map Reg.ps) <|>
  ((slotAt 0x150 5 off).map Reg.acc) <|>
  ((slotAt 0x170 4 off).map Reg.tag)

/-- The access is one the core accepts: 32 bits, at a multiple of 4 below 0x200 (20_memory.md R53). -/
def admitted (off bytes : Nat) : Bool :=
  decide (bytes = 4 ∧ off % 4 = 0 ∧ off < winSize)

/-- The value a register holds (20_memory.md R55 without the draws). ACC0..3 read `words_4(ACC mod 2^128)` and ACC4 reads
`zext_32(ACC[129:128])` (10_state.md R28). -/
def regValue (r : Reg) (s : State) : Word :=
  match r with
  | .cmd => s.cmd
  | .status => statusWord s
  | .ckey i => s.ckey[i]
  | .cctr => s.cctr
  | .cnonce i => s.cnonce[i]
  | .state i => s.x[i]
  | .saved i => s.saved[i]
  | .pkey i => s.pkey[i]
  | .msg i => s.msg[i]
  | .pr i => wordAt s.regR i
  | .ps i => wordAt s.regS i
  | .acc i => if i.val < 4 then wordAt (s.acc.setWidth 128) i else (s.acc.extractLsb' 128 2).setWidth 32
  | .tag i => wordAt s.tag i

/-- A read of this register returns a draw: it is an output register of a busy engine (10_state.md R30, 20_memory.md
R55). -/
def readsDraw (r : Reg) (s : State) : Bool :=
  match r with
  | .state _ => s.cbusy
  | .saved _ => s.cbusy
  | .pr _ => s.pbusy
  | .ps _ => s.pbusy
  | .acc _ => s.pbusy
  | .tag _ => s.pbusy
  | .cmd => false
  | .status => false
  | .ckey _ => false
  | .cctr => false
  | .cnonce _ => false
  | .pkey _ => false
  | .msg _ => false

/-- A read of a register by HOST (20_memory.md R55): its value, or the next draw, which counts one draw and changes
nothing else. -/
def readReg (r : Reg) (s : State) : Word × State :=
  if readsDraw r s then (Config.draw s.draws, { s with draws := s.draws + 1 }) else (regValue r s, s)

/-- `MemRead(off, 4)` for an admitted access (20_memory.md R55): a reserved offset reads 0 (R54). -/
def memRead (off : Nat) (s : State) : Word × State :=
  match regAt off with
  | some r => readReg r s
  | none => (0, s)

/-- A write to an input register of CE: `WRITE_BUSY` while CBUSY = 1, otherwise the write `stored` (20_memory.md R56). -/
def writeCE (stored : State) (s : State) : State :=
  if s.cbusy then reject .writeBusy s else stored

/-- A write to an input register of PE: `WRITE_BUSY` while PBUSY = 1, otherwise the write `stored` (20_memory.md R56). -/
def writePE (stored : State) (s : State) : State :=
  if s.pbusy then reject .writeBusy s else stored

/-- `MemWrite(off, 4, v)` at every register but CMD (20_memory.md R56): the RW data registers store or reject, the
read-only ones ignore the write. (CMD's entry stands for the issue, which Machine/Bus.lean performs; here it stores
nothing.) -/
def writeReg (r : Reg) (v : Word) (s : State) : State :=
  match r with
  | .ckey i => writeCE { s with ckey := s.ckey.set i v } s
  | .cctr => writeCE { s with cctr := v } s
  | .cnonce i => writeCE { s with cnonce := s.cnonce.set i v } s
  | .state i => writeCE { s with x := s.x.set i v } s
  | .pkey i => writePE { s with pkey := s.pkey.set i v } s
  | .msg i => writePE { s with msg := s.msg.set i v } s
  | .cmd => s
  | .status => s
  | .saved _ => s
  | .pr _ => s
  | .ps _ => s
  | .acc _ => s
  | .tag _ => s

/-- The byte at offset `a` of the window's byte image (20_memory.md R52): lane a mod 4 of the register at a - a mod 4; 0
at reserved offsets. A view of the registers, read with no draws. -/
def windowByte (s : State) (a : Nat) : Byte :=
  match regAt (a - a % 4) with
  | some r => (bytes32 (regValue r s)).getD (a % 4) 0
  | none => 0

/-- The byte of the window at a byte address, CORE_BASE + offset (20_memory.md R50, R52); `none` outside the window. -/
def byteAtAddress (s : State) (addr : Nat) : Option Byte :=
  if Config.coreBase ≤ addr ∧ addr < Config.coreBase + winSize then some (windowByte s (addr - Config.coreBase)) else none

/-! ## The HOSTs -/

/-- HOST `k`, changed by `f`. -/
def updateHost (k : Nat) (f : HostState → HostState) (s : State) : State :=
  { s with hosts := s.hosts.modify k f }

/-- The HOST goes on to its next operation. -/
def HostState.advance (h : HostState) : HostState :=
  { h with pos := h.pos + 1 }

/-- A `rd` returned `v`: it is appended to the trace (30_encoding.md R86), and the HOST goes on. -/
def HostState.readBack (v : Word) (h : HostState) : HostState :=
  { h with trace := h.trace ++ [v], pos := h.pos + 1 }

/-- The access was refused with a bus error: a HOST fault, recorded (20_memory.md R53, 60_exceptions.md R204), and the
HOST goes on (log 7). -/
def HostState.busError (h : HostState) : HostState :=
  { h with fault := true, pos := h.pos + 1 }

/-- The HOST jumps to a label (30_encoding.md R86). -/
def HostState.jump (target : Nat) (h : HostState) : HostState :=
  { h with pos := target }

/-- `cmd` of a raw command word: `wr CMD, w` (30_encoding.md R86). -/
def issueOp (w : Word) : HostOp :=
  .access (.write (regOffset .cmd) 4 w)

/-- The HOST with `op` as its next operation, in place of the one at its position (or after its last one). -/
def HostState.placeNext (op : HostOp) (h : HostState) : HostState :=
  if h.pos < h.program.length then { h with program := h.program.set h.pos op }
  else { h with program := h.program ++ [op], pos := h.program.length }

/-- The HOSTs with `op` as HOST 0's next operation; a HOST is added where there is none. -/
def placeNextOp (op : HostOp) : List HostState → List HostState
  | [] => [HostState.idle.placeNext op]
  | h :: hs => h.placeNext op :: hs

end Sys2Proof.Machine
end

