-- ==== Sys2Proof/Machine/QuarterRound.lean ====
section
/-!
DEFINITION. The quarter-round, an ARX mixer, and CC_QR (40_quarter_round.md).
-/

namespace Sys2Proof.Machine

/-- `QR(a, b, c, d)` (40_quarter_round.md R100): each line reads the values written by the lines before it. -/
def quarterRound (q : Word × Word × Word × Word) : Word × Word × Word × Word :=
  let (a, b, c, d) := q
  let a := a + b
  let d := rotl (d ^^^ a) 16
  let c := c + d
  let b := rotl (b ^^^ c) 12
  let a := a + b
  let d := rotl (d ^^^ a) 8
  let c := c + d
  let b := rotl (b ^^^ c) 7
  (a, b, c, d)

/-- `QR⁻¹` (40_quarter_round.md R102). No command computes it. -/
def quarterRoundInv (q : Word × Word × Word × Word) : Word × Word × Word × Word :=
  let (a, b, c, d) := q
  let b := rotr b 7 ^^^ c
  let c := c - d
  let d := rotr d 8 ^^^ a
  let a := a - b
  let b := rotr b 12 ^^^ c
  let c := c - d
  let d := rotr d 16 ^^^ a
  let a := a - b
  (a, b, c, d)

/-- "Applying a group g = (a,b,c,d) to X" (41_chacha_block.md R121, 40_quarter_round.md R101). -/
def applyGroup (g : Group) (x : Vector Word 16) : Vector Word 16 :=
  writeSlots g (quarterRound (readSlots g x)) x

/-- The rule of CC_QR: the quarter-round on the four slots (40_quarter_round.md R101). -/
def effectCcQr (g : Group) (s : State) : State :=
  { s with x := applyGroup g s.x }

/-- CC_QR (40_quarter_round.md R101). -/
def execCcQr (a b c d : Fin 16) (s : State) : Host.Outcome State Fault Refusal :=
  .next (ceCommand (.qr a b c d) (effectCcQr ⟨a, b, c, d⟩) s)

end Sys2Proof.Machine
end

