-- ==== Sys2Proof/Machine/Block.lean ====
section
/-!
DEFINITION. The ChaCha20 block transform: CC_INIT, CC_DROUND, CC_ROUNDS, CC_FEEDFWD, CC_BLOCK and the word serializer
(41_chacha_block.md).
-/

namespace Sys2Proof.Machine

/-- SIGMA, the constants of state words 0..3 (00_scope.md R10). -/
def sigma : Vector Word 4 :=
  #v[0x61707865, 0x3320646e, 0x79622d32, 0x6b206574]

/-- The initial state (41_chacha_block.md R120): words 0–3 SIGMA, 4–11 the key, 12 the counter, 13–15 the nonce. -/
def initialState (ckey : Vector Word 8) (cctr : Word) (cnonce : Vector Word 3) : Vector Word 16 :=
  #v[sigma[0], sigma[1], sigma[2], sigma[3],
     ckey[0], ckey[1], ckey[2], ckey[3],
     ckey[4], ckey[5], ckey[6], ckey[7],
     cctr, cnonce[0], cnonce[1], cnonce[2]]

/-- COL, the four column quarter-rounds (41_chacha_block.md R121). -/
def columnGroups : List Group :=
  [⟨0, 4, 8, 12⟩, ⟨1, 5, 9, 13⟩, ⟨2, 6, 10, 14⟩, ⟨3, 7, 11, 15⟩]

/-- DIA, the four diagonal quarter-rounds (41_chacha_block.md R121). -/
def diagonalGroups : List Group :=
  [⟨0, 5, 10, 15⟩, ⟨1, 6, 11, 12⟩, ⟨2, 7, 8, 13⟩, ⟨3, 4, 9, 14⟩]

/-- Groups applied to X in the listed order (41_chacha_block.md R121). -/
def applyGroups (gs : List Group) (x : Vector Word 16) : Vector Word 16 :=
  gs.foldl (fun y g => applyGroup g y) x

/-- `DROUND(X)`: 4 column, then 4 diagonal quarter-rounds (41_chacha_block.md R122). -/
def doubleRound (x : Vector Word 16) : Vector Word 16 :=
  applyGroups (columnGroups ++ diagonalGroups) x

/-- `n` double rounds one after another (41_chacha_block.md R123 runs ten). -/
def doubleRounds : Nat → Vector Word 16 → Vector Word 16
  | 0, x => x
  | n + 1, x => doubleRounds n (doubleRound x)

/-- Entry k of the 80-entry schedule: group `(COL ++ DIA)[k mod 8]` (41_chacha_block.md R124). -/
def scheduleEntry (k : Nat) : Group :=
  (columnGroups ++ diagonalGroups).getD (k % 8) ⟨0, 4, 8, 12⟩

/-- One step of the sequencer RC: step k applies schedule entry k, and RC goes on to k + 1 (10_state.md R35). -/
def sequencerStep (s : State) : State :=
  { s with x := applyGroup (scheduleEntry s.rc.val) s.x, rc := s.rc + 1 }

/-- `n` steps of the sequencer. -/
def sequencerRun : Nat → State → State
  | 0, s => s
  | n + 1, s => sequencerRun n (sequencerStep s)

/-- Word-by-word 32-bit wraparound addition, no carry between words (41_chacha_block.md R125). -/
def feedForward (x saved : Vector Word 16) : Vector Word 16 :=
  Vector.zipWith (fun u v => u + v) x saved

/-- The rule of CC_INIT: X becomes the initial state and SAVED a copy of it (41_chacha_block.md R120). -/
def effectCcInit (s : State) : State :=
  { s with x := initialState s.ckey s.cctr s.cnonce, saved := initialState s.ckey s.cctr s.cnonce }

/-- The rule of CC_DROUND: one double round on X (41_chacha_block.md R122). -/
def effectCcDround (s : State) : State :=
  { s with x := doubleRound s.x }

/-- The rule of CC_ROUNDS: RC steps from 0 to 79 through the schedule (41_chacha_block.md R123, R124, 10_state.md R35;
log 10). -/
def effectCcRounds (s : State) : State :=
  sequencerRun 80 { s with rc := 0 }

/-- The rule of CC_FEEDFWD (41_chacha_block.md R125). -/
def effectCcFeedfwd (s : State) : State :=
  { s with x := feedForward s.x s.saved }

/-- The rule of CC_BLOCK: CC_INIT, CC_ROUNDS, CC_FEEDFWD (41_chacha_block.md R126). -/
def effectCcBlock (s : State) : State :=
  effectCcFeedfwd (effectCcRounds (effectCcInit s))

/-- CC_INIT (41_chacha_block.md R120). -/
def execCcInit (s : State) : Host.Outcome State Fault Refusal :=
  .next (ceCommand .init effectCcInit s)

/-- CC_DROUND (41_chacha_block.md R122). -/
def execCcDround (s : State) : Host.Outcome State Fault Refusal :=
  .next (ceCommand .dround effectCcDround s)

/-- CC_ROUNDS (41_chacha_block.md R123). -/
def execCcRounds (s : State) : Host.Outcome State Fault Refusal :=
  .next (ceCommand .rounds effectCcRounds s)

/-- CC_FEEDFWD (41_chacha_block.md R125). -/
def execCcFeedfwd (s : State) : Host.Outcome State Fault Refusal :=
  .next (ceCommand .feedfwd effectCcFeedfwd s)

/-- CC_BLOCK (41_chacha_block.md R126). -/
def execCcBlock (s : State) : Host.Outcome State Fault Refusal :=
  .next (ceCommand .block effectCcBlock s)

/-- The keystream block: the 64-byte little-endian serialisation of X, a view (41_chacha_block.md R127). -/
def keystream (x : Vector Word 16) : List Byte :=
  x.toList.flatMap bytes32

end Sys2Proof.Machine
end

