-- ==== Sys2Proof/Machine/Control.lean ====
section
/-!
DEFINITION. The control commands (45_control.md). Neither belongs to an engine, both act at the CMD write, and neither is
rejected for BUSY.
-/

namespace Sys2Proof.Machine

/-- CLRERR (45_control.md R180): CMD <- the word, then ERR and ERRMULT <- 0. -/
def execClrerr (s : State) : Host.Outcome State Fault Refusal :=
  .next (clearErrors { s with cmd := encode .clrerr })

/-- SRST (45_control.md R181): the reset of 70_reset_and_hazards.md R230, so CMD reads 0 afterwards. -/
def execSrst (s : State) : Host.Outcome State Fault Refusal :=
  .next (coreReset { s with cmd := encode .srst })

end Sys2Proof.Machine
end

