-- ==== Sys2Proof/Machine/Poly1305.lean ====
section
/-!
DEFINITION. The Poly1305 engine: P_KEY with the clamp, P_BLOCK, P_FINAL (42_poly1305_key.md, 43_poly1305_multiplier.md,
44_poly1305_finalizer.md). Sums and products are exact on naturals, then reduced (00_scope.md R12).
-/

namespace Sys2Proof.Machine

/-- `P = 2^130 − 5` (00_scope.md R10). -/
def polyP : Nat := 2 ^ 130 - 5

/-- CLAMP_MASK (00_scope.md R10). -/
def clampMask : BitVec 128 := 0x0ffffffc0ffffffc0ffffffc0fffffff#128

/-- `clamp(v) = v & CLAMP_MASK` (42_poly1305_key.md R151). -/
def clamp (v : BitVec 128) : BitVec 128 :=
  v &&& clampMask

/-- `T = ACC + N`, exact (43_poly1305_multiplier.md R160). -/
def blockSum (acc : BitVec 130) (n : Nat) : Nat :=
  acc.toNat + n

/-- `(T · R) mod P` (43_poly1305_multiplier.md R160). -/
def mulReduce (t : Nat) (r : BitVec 128) : Nat :=
  (t * r.toNat) % polyP

/-- The rule of P_KEY: R clamped, S loaded, ACC zeroed (42_poly1305_key.md R150). -/
def effectPKey (s : State) : State :=
  { s with regR := clamp (keyLow s.pkey), regS := keyHigh s.pkey, acc := 0 }

/-- The rule of P_BLOCK L: one chunk folded into ACC (43_poly1305_multiplier.md R160). -/
def effectPBlock (len : Nat) (s : State) : State :=
  { s with acc := BitVec.ofNat 130 (mulReduce (blockSum s.acc (chunkVal s.msg len)) s.regR) }

/-- The rule of P_FINAL: `TAG <- (ACC + S) mod 2^128` (44_poly1305_finalizer.md R170). -/
def effectPFinal (s : State) : State :=
  { s with tag := BitVec.ofNat 128 (s.acc.toNat + s.regS.toNat) }

/-- P_KEY (42_poly1305_key.md R150). -/
def execPKey (s : State) : Host.Outcome State Fault Refusal :=
  .next (peCommand .key effectPKey s)

/-- P_BLOCK (43_poly1305_multiplier.md R160). -/
def execPBlock (len : Fin 32) (s : State) : Host.Outcome State Fault Refusal :=
  .next (peCommand (.block len) (effectPBlock len.val) s)

/-- P_FINAL (44_poly1305_finalizer.md R170). -/
def execPFinal (s : State) : Host.Outcome State Fault Refusal :=
  .next (peCommand .final effectPFinal s)

end Sys2Proof.Machine
end

