-- ==== Sys2Proof/Machine/Dispatch.lean ====
section
/-!
DEFINITION. The meaning of a command, one arm per row of the opcode table.
-/

namespace Sys2Proof.Machine

def exec (i : Instr) (s : State) : Host.Outcome State Fault Refusal :=
  match i with
  | .clrerr => Sys2Proof.Machine.execClrerr s
  | .srst => Sys2Proof.Machine.execSrst s
  | .ccInit => Sys2Proof.Machine.execCcInit s
  | .ccQr a b c d => Sys2Proof.Machine.execCcQr a b c d s
  | .ccDround => Sys2Proof.Machine.execCcDround s
  | .ccRounds => Sys2Proof.Machine.execCcRounds s
  | .ccFeedfwd => Sys2Proof.Machine.execCcFeedfwd s
  | .ccBlock => Sys2Proof.Machine.execCcBlock s
  | .pKey => Sys2Proof.Machine.execPKey s
  | .pBlock len => Sys2Proof.Machine.execPBlock len s
  | .pFinal => Sys2Proof.Machine.execPFinal s

end Sys2Proof.Machine
end

