-- ==== Sys2Proof/Machine/Bus.lean ====
section
/-!
DEFINITION. The moves of the agents: HOST's accesses, command issue, the engines' completion steps and the reset input
(20_memory.md R53 to R61, 60_exceptions.md R200).
-/

namespace Sys2Proof.Machine

/-- `Issue(v)`, a HOST write of `v` to CMD (60_exceptions.md R200): decode, then reject or execute. Whether the engine is
busy is checked after decode, by the command itself (30_encoding.md R84). -/
def issue (v : Word) (s : State) : Host.Outcome State Fault Refusal :=
  match decode v with
  | .error e => .next (reject e s)
  | .ok i => exec i s

/-- `MemWrite(off, 4, v)` for an admitted access (20_memory.md R56); a reserved offset ignores it (R54). -/
def memWrite (off : Nat) (v : Word) (s : State) : Host.Outcome State Fault Refusal :=
  match regAt off with
  | some .cmd => issue v s
  | some r => .next (writeReg r v s)
  | none => .next s

/-- One bus access of HOST `k`: an access that is not admitted is a bus error with no effect on the core (20_memory.md
R53). -/
def busAccess (k : Nat) (a : BusAccess) (s : State) : Host.Outcome State Fault Refusal :=
  match a with
  | .read off bytes =>
    if admitted off bytes then .next (updateHost k (HostState.readBack (memRead off s).1) (memRead off s).2)
    else .next (updateHost k HostState.busError s)
  | .write off bytes v =>
    if admitted off bytes then onNext (updateHost k HostState.advance) (memWrite off v s)
    else .next (updateHost k HostState.busError s)

/-- `bset REG, bit, label` of HOST `k`: read the register, jump if that bit of the value is 1 (30_encoding.md R86). -/
def branchIfSet (k : Nat) (r : Reg) (bit : Fin 32) (target : Nat) (s : State) : State :=
  if (readReg r s).1.getLsbD bit.val then updateHost k (HostState.jump target) (readReg r s).2
  else updateHost k HostState.advance (readReg r s).2

/-- The operation HOST `k` performs next; `none` if it has finished or there is no such HOST. -/
def nextOp (k : Nat) (s : State) : Option HostOp :=
  match s.hosts[k]? with
  | some h => h.program[h.pos]?
  | none => none

/-- The move of HOST `k`; a HOST with nothing to do does nothing (log 3). -/
def hostMove (k : Nat) (s : State) : Host.Outcome State Fault Refusal :=
  match nextOp k s with
  | some (.access a) => busAccess k a s
  | some (.bset r bit target) => .next (branchIfSet k r bit target s)
  | none => .next s

/-- CE's completion step: enabled when CBUSY = 1, it applies the command in CPEND (20_memory.md R61); otherwise nothing
happens (log 3, log 15). -/
def ceMove (s : State) : Host.Outcome State Fault Refusal :=
  match s.cbusy, s.cpend with
  | true, some c => exec (ceInstr c) s
  | _, _ => .next s

/-- PE's completion step (20_memory.md R61; log 3, log 15). -/
def peMove (s : State) : Host.Outcome State Fault Refusal :=
  match s.pbusy, s.ppend with
  | true, some c => exec (peInstr c) s
  | _, _ => .next s

/-- The move of an agent. -/
def moveOf (a : Agent) (s : State) : Host.Outcome State Fault Refusal :=
  match a with
  | .host k => hostMove k s
  | .ce => ceMove s
  | .pe => peMove s
  | .resetInput => .next (coreReset s)

end Sys2Proof.Machine
end

