-- ==== Sys2Proof/Machine/Step.lean ====
section
/-!
DEFINITION. One step: one move of one agent (60_exceptions.md R206: events are totally ordered), and the placing of a
command where the next step performs it.
-/

namespace Sys2Proof.Machine

/-- One move of the agent whose turn it is (20_memory.md R60, R61; log 1). -/
def step (s : State) : Host.Outcome State Fault Refusal :=
  onNext tick (moveOf (mover s) s)

/-- `s` with the command word `w` as the word HOST 0 writes to CMD in the very next step (log 8). -/
def State.withFetchWord (s : State) (nbits w : Nat) : State :=
  { s with
    hosts := placeNextOp (issueOp (BitVec.ofNat 32 (w % 2 ^ nbits))) s.hosts
    sched := .host 0 :: s.sched }

end Sys2Proof.Machine
end

