-- ==== Sys2Proof/Safety.lean ====
section
/-!
DEFINITION. What holds at every state (10_state.md R36 and the rules it rests on), and what a run that ended well is
(70_reset_and_hazards.md R240).
-/

namespace Sys2Proof.Machine

/-- The command pending in CPEND, if any, has legal operands: only decoded commands are accepted (60_exceptions.md R200). -/
def cpendLegal (s : State) : Prop :=
  ∀ c, s.cpend = some c → (ceInstr c).wellFormed = true

/-- The command pending in PPEND, if any, has legal operands. -/
def ppendLegal (s : State) : Prop :=
  ∀ c, s.ppend = some c → (peInstr c).wellFormed = true

/-- The invariants of the core. -/
structure Inv (s : State) : Prop where
  /-- CBUSY = 1 if and only if CPEND holds a command (10_state.md R30, R36). -/
  cbusyPending : s.cbusy = s.cpend.isSome
  /-- PBUSY = 1 if and only if PPEND holds a command (10_state.md R30, R36). -/
  pbusyPending : s.pbusy = s.ppend.isSome
  /-- `R & ~CLAMP_MASK = 0` (10_state.md R26, R36). -/
  rClamped : s.regR &&& ~~~clampMask = 0
  /-- `ACC < P` (10_state.md R28, R36). -/
  accReduced : s.acc.toNat < polyP
  /-- Codes 0x7–0xF are never produced (60_exceptions.md R203). -/
  errCode : s.err.toNat ≤ 6
  /-- ERRMULT is 1 only if a rejection was recorded before it (10_state.md R32). -/
  errmultAfterErr : s.errmult = true → s.err ≠ 0
  /-- RC is 0 between two steps of the model (10_state.md R35; log 10). -/
  rcZero : s.rc = 0
  /-- What CE is to perform was decoded. -/
  cpendLegal : cpendLegal s
  /-- What PE is to perform was decoded. -/
  ppendLegal : ppendLegal s

/-- The end of a run (70_reset_and_hazards.md R240): the HOST program has executed its last operation, both engines are
idle with no command pending, and no HOST fault was recorded. R240 speaks of one program: that with several HOSTs (20_memory.md
R67) every one must have finished, and none have a fault, is the model's choice. DESIGN CHOICE (log 22). -/
def runEnded (s : State) : Bool :=
  s.hosts.all hostDone && !s.cbusy && !s.pbusy && s.cpend.isNone && s.ppend.isNone &&
    s.hosts.all fun h => !h.fault

/-- Every register of the window, in the order of 20_memory.md R51. -/
def windowRegs : List Reg :=
  [.cmd, .status] ++ [0, 1, 2, 3, 4, 5, 6, 7].map Reg.ckey ++ [.cctr] ++ [0, 1, 2].map Reg.cnonce ++
    [0, 1, 2, 3, 4, 5, 6, 7, 8, 9, 10, 11, 12, 13, 14, 15].map Reg.state ++
    [0, 1, 2, 3, 4, 5, 6, 7, 8, 9, 10, 11, 12, 13, 14, 15].map Reg.saved ++
    [0, 1, 2, 3, 4, 5, 6, 7].map Reg.pkey ++ [0, 1, 2, 3].map Reg.msg ++ [0, 1, 2, 3].map Reg.pr ++
    [0, 1, 2, 3].map Reg.ps ++ [0, 1, 2, 3, 4].map Reg.acc ++ [0, 1, 2, 3].map Reg.tag

/-- What is observed of an ended run: the register values, read with no draws, and the traces of `rd` values
(70_reset_and_hazards.md R240). One trace for each HOST, with no order between the reads of two HOSTs. DESIGN CHOICE
(log 22). -/
def observation (s : State) : List Word × List (List Word) :=
  (windowRegs.map fun r => regValue r s, s.hosts.map fun h => h.trace)

end Sys2Proof.Machine
end

