-- ==== Sys2Proof/Certificates/Slice0/Obligations.lean ====
section
/-!
DEFINITION. The statements for the provers, from the numbered rules of spec/. In a statement about the completion of an
engine's command the hypothesis is that the move is the engine's (`mover s = .ce` or `.pe`): that is the completion step
of 20_memory.md R61 (log 11). `rc := 0` in them is 10_state.md R35 (log 10).
-/

open Sys2Proof Sys2Proof.Machine

/-! ## Encoding -/

/-- Encoding a legal command and decoding it gives it back (30_encoding.md R80, R84, R86). -/
def Obligations.EncodeThenDecodeIsIdentity : Prop :=
  ∀ i : Instr, i.wellFormed = true → decode (encode i) = .ok i ∧ decodeTableWord 32 (encode i).toNat = some i

/-- A word that decodes is the one encoding of its command, and the command is legal (30_encoding.md R83, R84): so `CMD <- v`
may be read as `CMD <- encode i`. -/
def Obligations.DecodedWordIsItsEncoding : Prop :=
  ∀ (w : Word) (i : Instr), decode w = .ok i → i.wellFormed = true ∧ encode i = w

/-- `decode` of 30_encoding.md R84: the opcode, then the reserved bits, then the operands, each failing check with its
code. -/
def Obligations.DecodeChecksInOrder : Prop :=
  ∀ w : Word,
    (w.toNat % 2 ^ 8 ∉ [0x01, 0x02, 0x10, 0x11, 0x12, 0x13, 0x14, 0x15, 0x20, 0x21, 0x22] →
      decode w = .error .illegalOp) ∧
    (w.toNat % 2 ^ 8 = 0x11 → w.toNat / 2 ^ 24 ≠ 0 → decode w = .error .rsvdBits) ∧
    (w.toNat % 2 ^ 8 = 0x11 → w.toNat / 2 ^ 24 = 0 →
      ∀ a b c d : Fin 16, w.toNat / 2 ^ 8 % 16 = a → w.toNat / 2 ^ 12 % 16 = b → w.toNat / 2 ^ 16 % 16 = c →
        w.toNat / 2 ^ 20 % 16 = d →
        (¬ SlotsDistinct a b c d → decode w = .error .qrAlias) ∧ (SlotsDistinct a b c d → decode w = .ok (.ccQr a b c d))) ∧
    (w.toNat % 2 ^ 8 = 0x21 → w.toNat / 2 ^ 13 ≠ 0 → decode w = .error .rsvdBits) ∧
    (w.toNat % 2 ^ 8 = 0x21 → w.toNat / 2 ^ 13 = 0 →
      ∀ len : Fin 32, w.toNat / 2 ^ 8 % 32 = len →
        (len.val = 0 ∨ 16 < len.val → decode w = .error .badLen) ∧
        (1 ≤ len.val ∧ len.val ≤ 16 → decode w = .ok (.pBlock len))) ∧
    (∀ row ∈ [(0x01, Instr.clrerr), (0x02, .srst), (0x10, .ccInit), (0x12, .ccDround), (0x13, .ccRounds),
        (0x14, .ccFeedfwd), (0x15, .ccBlock), (0x20, .pKey), (0x22, .pFinal)],
      w.toNat % 2 ^ 8 = row.1 →
        (w.toNat / 2 ^ 8 ≠ 0 → decode w = .error .rsvdBits) ∧ (w.toNat / 2 ^ 8 = 0 → decode w = .ok row.2))

/-- The match and mask values of 30_encoding.md R82: a decoded word selects its command's row, and no word selects the rows
of two opcodes. -/
def Obligations.DecodedWordSelectsItsRowAlone : Prop :=
  (∀ (w : Word) (i : Instr), decode w = .ok i → w &&& tableMask i = tableMatch i) ∧
  (∀ (w : Word) (i j : Instr), w &&& tableMask i = tableMatch i → w &&& tableMask j = tableMatch j →
    opcode i = opcode j)

/-- Words that the spec writes out decode to what it says they are (30_encoding.md R82, 43_poly1305_multiplier.md R160,
95_test_vectors.md sections 2.1, 2.4, 2.6). -/
def Obligations.SpecWordsDecodeAsWritten : Prop :=
  decode 0x00765411 = .ok (.ccQr 4 5 6 7) ∧ decode 0x00370f11 = .ok (.ccQr 15 0 7 3) ∧
  decode 0x00001021 = .ok (.pBlock 16) ∧ decode 0x00000221 = .ok (.pBlock 2) ∧
  decode 0x00000001 = .ok .clrerr ∧ decode 0x00000015 = .ok .ccBlock ∧ decode 0x00000022 = .ok .pFinal ∧
  decode 0x00321111 = .error .qrAlias ∧ decode 0x01000011 = .error .rsvdBits ∧
  decode 0x00000021 = .error .badLen ∧ decode 0x000000ff = .error .illegalOp

/-! ## Steps, issue and completion -/

/-- A HOST's write of a word to CMD runs the decoded command, or rejects the word with the decoder's code
(60_exceptions.md R200); around it the step moves the HOST on and uses up the schedule's entry (log 1). -/
def Obligations.StepRunsTheCommandTheHostWrites : Prop :=
  ∀ (s : State) (k : Nat) (w : Word), mover s = .host k → nextOp k s = some (.access (.write 0 4 w)) →
    (∀ i, decode w = .ok i →
      step s = onNext (fun t => tick (updateHost k HostState.advance t)) (exec i s)) ∧
    (∀ e, decode w = .error e → step s = .next (tick (updateHost k HostState.advance (reject e s))))

/-- An engine's move runs the command pending in its slot (20_memory.md R61). -/
def Obligations.StepRunsThePendingCommand : Prop :=
  ∀ s : State,
    (∀ c, mover s = .ce → s.cbusy = true → s.cpend = some c → step s = onNext tick (exec (ceInstr c) s)) ∧
    (∀ c, mover s = .pe → s.pbusy = true → s.ppend = some c → step s = onNext tick (exec (peInstr c) s))

/-- A word placed by `withFetchWord` is the command the very next step runs (log 8). -/
def Obligations.FetchWordIsTheNextCommand : Prop :=
  ∀ (s : State) (w : Nat) (i : Instr), w < 2 ^ 32 → decodeTableWord 32 w = some i →
    step (s.withFetchWord 32 w) =
      onNext (fun t => tick (updateHost 0 HostState.advance t)) (exec i (s.withFetchWord 32 w))

/-- `Issue(v)` and `accept(v, cmd)` of 60_exceptions.md R200 and R201, in a HOST's move. -/
def Obligations.IssueDecodesThenChecksBusyThenAccepts : Prop :=
  ∀ (s : State) (k : Nat) (v : Word), mover s = .host k →
    (∀ e, decode v = .error e → issue v s = .next (reject e s)) ∧
    (∀ c, decode v = .ok (ceInstr c) → s.cbusy = true → issue v s = .next (reject .busy s)) ∧
    (∀ c, decode v = .ok (peInstr c) → s.pbusy = true → issue v s = .next (reject .busy s)) ∧
    (∀ c, decode v = .ok (ceInstr c) → s.cbusy = false →
      issue v s = .next { s with cmd := v, cpend := some c, cbusy := true }) ∧
    (∀ c, decode v = .ok (peInstr c) → s.pbusy = false →
      issue v s = .next { s with cmd := v, ppend := some c, pbusy := true }) ∧
    (decode v = .ok .clrerr → issue v s = .next { s with cmd := v, err := 0, errmult := false }) ∧
    (decode v = .ok .srst → issue v s = .next (coreReset s))

/-- Every legal engine command is accepted by an idle engine: CMD takes the word, the slot the command, the busy bit is set,
and nothing else changes (60_exceptions.md R201). -/
def Obligations.IdleEngineAcceptsEveryLegalCommand : Prop :=
  ∀ s : State,
    (∀ c, (ceInstr c).wellFormed = true → mover s ≠ .ce → s.cbusy = false →
      exec (ceInstr c) s = .next { s with cmd := encode (ceInstr c), cpend := some c, cbusy := true }) ∧
    (∀ c, (peInstr c).wellFormed = true → mover s ≠ .pe → s.pbusy = false →
      exec (peInstr c) s = .next { s with cmd := encode (peInstr c), ppend := some c, pbusy := true })

/-- A command for a busy engine is rejected with BUSY, and what the program wrote is lost (70_reset_and_hazards.md R235,
60_exceptions.md R202). -/
def Obligations.BusyEngineRejectsTheCommand : Prop :=
  ∀ s : State,
    (∀ c, (ceInstr c).wellFormed = true → mover s ≠ .ce → s.cbusy = true →
      exec (ceInstr c) s = .next { s with
        err := if s.err = 0 then 5 else s.err
        errmult := if s.err = 0 then s.errmult else true }) ∧
    (∀ c, (peInstr c).wellFormed = true → mover s ≠ .pe → s.pbusy = true →
      exec (peInstr c) s = .next { s with
        err := if s.err = 0 then 5 else s.err
        errmult := if s.err = 0 then s.errmult else true })

/-- CC_QR with indices that are not distinct and P_BLOCK with an illegal length are rejected in every state and change only
the error record. The decoder rejects such words (30_encoding.md R83); that the command itself does is the model's choice
(log 14). -/
def Obligations.IllegalOperandsAreRejected : Prop :=
  (∀ (a b c d : Fin 16) (s : State), ¬ SlotsDistinct a b c d → exec (.ccQr a b c d) s = .next { s with
      err := if s.err = 0 then 3 else s.err
      errmult := if s.err = 0 then s.errmult else true }) ∧
  (∀ (len : Fin 32) (s : State), ¬ LengthLegal len → exec (.pBlock len) s = .next { s with
      err := if s.err = 0 then 4 else s.err
      errmult := if s.err = 0 then s.errmult else true })

/-- From the write that issues a CE command to an idle CE, with CE's move next in the schedule, two steps accept and then run
it; and the same for PE (60_exceptions.md R201, 20_memory.md R61). -/
def Obligations.AcceptedCommandIsRunByItsEngineNext : Prop :=
  ∀ (s : State) (k : Nat) (v : Word) (rest : List Agent), nextOp k s = some (.access (.write 0 4 v)) →
    (∀ c, s.sched = .host k :: .ce :: rest → decode v = .ok (ceInstr c) → s.cbusy = false →
      ∃ u, step s = .next u ∧ u.cpend = some c ∧ u.cbusy = true ∧ u.cmd = v ∧ u.x = s.x ∧
        step u = onNext tick (exec (ceInstr c) u)) ∧
    (∀ c, s.sched = .host k :: .pe :: rest → decode v = .ok (peInstr c) → s.pbusy = false →
      ∃ u, step s = .next u ∧ u.ppend = some c ∧ u.pbusy = true ∧ u.cmd = v ∧ u.acc = s.acc ∧
        step u = onNext tick (exec (peInstr c) u))

/-! ## Control commands and reset -/

/-- CLRERR: CMD becomes its word, ERR and ERRMULT become 0, nothing else changes (45_control.md R180). -/
def Obligations.ClrerrClearsTheErrorRecord : Prop :=
  ∀ s : State, exec .clrerr s = .next { s with cmd := 0x00000001, err := 0, errmult := false }

/-- SRST and the reset input have the same effect, and every register, slot and bit of 70_reset_and_hazards.md R230 takes its
reset value; STATUS reads 0. -/
def Obligations.SrstAndResetInputZeroEverything : Prop :=
  ∀ s : State, ∃ t, exec .srst s = .next t ∧ moveOf .resetInput s = .next t ∧
    t.cmd = 0 ∧ t.err = 0 ∧ t.errmult = false ∧
    t.cbusy = false ∧ t.cpend = none ∧ t.pbusy = false ∧ t.ppend = none ∧ t.rc = 0 ∧
    (∀ i : Fin 8, t.ckey[i] = 0) ∧ t.cctr = 0 ∧ (∀ i : Fin 3, t.cnonce[i] = 0) ∧
    (∀ i : Fin 16, t.x[i] = 0) ∧ (∀ i : Fin 16, t.saved[i] = 0) ∧
    (∀ i : Fin 8, t.pkey[i] = 0) ∧ (∀ i : Fin 4, t.msg[i] = 0) ∧
    t.regR = 0 ∧ t.regS = 0 ∧ t.acc = 0 ∧ t.tag = 0 ∧ statusWord t = 0

/-- SRST leaves exactly the reset state, but for the HOSTs, the schedule and the count of draws, which are not the core's
(the model's choice, log 12). -/
def Obligations.SrstLeavesTheResetState : Prop :=
  ∀ s : State, exec .srst s = .next { State.reset with hosts := s.hosts, sched := s.sched, draws := s.draws }

/-- After reset every register of the window reads 0x00000000 and both engines are idle (10_state.md R21,
70_reset_and_hazards.md R231). -/
def Obligations.ResetStateReadsZeroAndIsIdle : Prop :=
  (∀ r : Reg, regValue r State.reset = 0 ∧ readsDraw r State.reset = false) ∧
  State.reset.cpend = none ∧ State.reset.ppend = none ∧ State.reset.rc = 0

/-! ## ChaCha: the quarter-round and the block -/

/-- The four steps of QR, each reading the values written before it, with the rotation as the library's rotation of a bit
vector (40_quarter_round.md R100, 00_scope.md R8). -/
def Obligations.QuarterRoundRunsItsFourSteps : Prop :=
  ∀ a b c d a1 d1 c1 b1 a2 d2 c2 b2 : Word,
    a1 = a + b → d1 = (d ^^^ a1).rotateLeft 16 →
    c1 = c + d1 → b1 = (b ^^^ c1).rotateLeft 12 →
    a2 = a1 + b1 → d2 = (d1 ^^^ a2).rotateLeft 8 →
    c2 = c1 + d2 → b2 = (b1 ^^^ c2).rotateLeft 7 →
    quarterRound (a, b, c, d) = (a2, b2, c2, d2)

/-- QR is a bijection, with the inverse of 40_quarter_round.md R102. -/
def Obligations.QuarterRoundHasItsInverse : Prop :=
  ∀ q : Word × Word × Word × Word,
    quarterRoundInv (quarterRound q) = q ∧ quarterRound (quarterRoundInv q) = q

/-- CC_QR completes: the four slots take the quarter-round of their values, all read before any is written, and nothing else
changes but CE's bookkeeping (40_quarter_round.md R101). -/
def Obligations.CcQrMixesItsFourSlots : Prop :=
  ∀ (a b c d : Fin 16) (s : State), SlotsDistinct a b c d → mover s = .ce →
    ∃ t, exec (.ccQr a b c d) s = .next t ∧
      (t.x[a], t.x[b], t.x[c], t.x[d]) = quarterRound (s.x[a], s.x[b], s.x[c], s.x[d]) ∧
      (∀ i : Fin 16, i ≠ a → i ≠ b → i ≠ c → i ≠ d → t.x[i] = s.x[i]) ∧
      t = { s with x := t.x, cpend := none, cbusy := false, rc := 0 }

/-- CC_INIT completes: X is SIGMA, the key, the counter, the nonce; SAVED is a copy of it (41_chacha_block.md R120). -/
def Obligations.CcInitBuildsTheInitialState : Prop :=
  ∀ s : State, mover s = .ce →
    ∃ t, exec .ccInit s = .next t ∧
      t.x.toList = [0x61707865, 0x3320646e, 0x79622d32, 0x6b206574] ++ s.ckey.toList ++ [s.cctr] ++ s.cnonce.toList ∧
      t.saved = t.x ∧
      t = { s with x := t.x, saved := t.saved, cpend := none, cbusy := false, rc := 0 }

/-- CC_DROUND completes: the four column quarter-rounds, then the four diagonal ones (41_chacha_block.md R121, R122). -/
def Obligations.CcDroundRunsColumnsThenDiagonals : Prop :=
  ∀ s : State, mover s = .ce →
    exec .ccDround s = .next { s with
      x := applyGroups [⟨0, 5, 10, 15⟩, ⟨1, 6, 11, 12⟩, ⟨2, 7, 8, 13⟩, ⟨3, 4, 9, 14⟩]
        (applyGroups [⟨0, 4, 8, 12⟩, ⟨1, 5, 9, 13⟩, ⟨2, 6, 10, 14⟩, ⟨3, 7, 11, 15⟩] s.x)
      cpend := none, cbusy := false, rc := 0 }

/-- CC_ROUNDS completes: ten double rounds, which are the 80 entries of the schedule in order; SAVED and all else is
unchanged (41_chacha_block.md R123, R124). -/
def Obligations.CcRoundsRunsTenDoubleRounds : Prop :=
  ∀ s : State, mover s = .ce →
    ∃ t, exec .ccRounds s = .next t ∧
      t.x = doubleRound^[10] s.x ∧
      t.x = (List.range 80).foldl (fun y k => applyGroup (scheduleEntry k) y) s.x ∧
      t = { s with x := t.x, cpend := none, cbusy := false, rc := 0 }

/-- CC_FEEDFWD completes: X[i] <- X[i] ⊞ SAVED[i] for each word, SAVED unchanged (41_chacha_block.md R125). -/
def Obligations.CcFeedfwdAddsSavedWordByWord : Prop :=
  ∀ s : State, mover s = .ce →
    ∃ t, exec .ccFeedfwd s = .next t ∧ (∀ i : Fin 16, t.x[i] = s.x[i] + s.saved[i]) ∧
      t = { s with x := t.x, cpend := none, cbusy := false, rc := 0 }

/-- CC_BLOCK completes: with I the initial state, X[i] is the ten double rounds of I at i plus I at i, and SAVED is I; CKEY,
CCTR, CNONCE and all else are unchanged (41_chacha_block.md R126, R129). -/
def Obligations.CcBlockComputesTheKeystreamBlock : Prop :=
  ∀ s : State, mover s = .ce →
    ∃ t, exec .ccBlock s = .next t ∧ t.saved = initialState s.ckey s.cctr s.cnonce ∧
      (∀ i : Fin 16, t.x[i] =
        (doubleRound^[10] (initialState s.ckey s.cctr s.cnonce))[i] + (initialState s.ckey s.cctr s.cnonce)[i]) ∧
      t = { s with x := t.x, saved := t.saved, cpend := none, cbusy := false, rc := 0 }

/-- CC_BLOCK ends in the state in which CC_INIT, CC_ROUNDS, CC_FEEDFWD run one after another end, and the rules of CC_INIT,
ten CC_DROUND and CC_FEEDFWD give the same X and SAVED and change nothing else (41_chacha_block.md R126, R128). -/
def Obligations.BlockEqualsInitRoundsFeedforward : Prop :=
  ∀ (s : State) (rest : List Agent), s.sched = .ce :: rest →
    ∃ t1 t2 t3, exec .ccInit s = .next t1 ∧ exec .ccRounds t1 = .next t2 ∧ exec .ccFeedfwd t2 = .next t3 ∧
      exec .ccBlock s = .next t3 ∧
      effectCcFeedfwd (effectCcDround^[10] (effectCcInit s)) = { s with x := t3.x, saved := t3.saved }

/-- The round function without feed-forward is invertible on X (41_chacha_block.md R123). -/
def Obligations.RoundsAreInvertible : Prop :=
  ∀ n : Nat, Function.Bijective (doubleRounds n)

/-- The result of a column or diagonal round does not depend on the order of its four groups (41_chacha_block.md R121). -/
def Obligations.GroupOrderInsideARoundIsIrrelevant : Prop :=
  ∀ (gs : List Group) (x : Vector Word 16),
    (gs.Perm [⟨0, 4, 8, 12⟩, ⟨1, 5, 9, 13⟩, ⟨2, 6, 10, 14⟩, ⟨3, 7, 11, 15⟩] →
      applyGroups gs x = applyGroups columnGroups x) ∧
    (gs.Perm [⟨0, 5, 10, 15⟩, ⟨1, 6, 11, 12⟩, ⟨2, 7, 8, 13⟩, ⟨3, 4, 9, 14⟩] →
      applyGroups gs x = applyGroups diagonalGroups x)

/-! ## Poly1305 -/

/-- P_KEY completes: word by word, R is the first key half under the clamp's word masks and S the second half as it is; ACC
is 0; TAG, MSG and all else are unchanged (42_poly1305_key.md R150, R151). -/
def Obligations.PKeyClampsRAndLoadsS : Prop :=
  ∀ s : State, mover s = .pe →
    ∃ t, exec .pKey s = .next t ∧
      regValue (.pr 0) t = s.pkey[0] &&& 0x0fffffff ∧ regValue (.pr 1) t = s.pkey[1] &&& 0x0ffffffc ∧
      regValue (.pr 2) t = s.pkey[2] &&& 0x0ffffffc ∧ regValue (.pr 3) t = s.pkey[3] &&& 0x0ffffffc ∧
      regValue (.ps 0) t = s.pkey[4] ∧ regValue (.ps 1) t = s.pkey[5] ∧
      regValue (.ps 2) t = s.pkey[6] ∧ regValue (.ps 3) t = s.pkey[7] ∧
      t = { s with regR := t.regR, regS := t.regS, acc := 0, ppend := none, pbusy := false }

/-- P_BLOCK L completes for every legal L: ACC is (ACC + N)·R mod 2^130 − 5, exactly, with no bit lost, and R, S, TAG, MSG
and all else are unchanged (43_poly1305_multiplier.md R160). -/
def Obligations.PBlockFoldsOneChunk : Prop :=
  ∀ (len : Fin 32) (s : State), LengthLegal len → mover s = .pe →
    ∃ t, exec (.pBlock len) s = .next t ∧
      t.acc.toNat = ((s.acc.toNat + chunkVal s.msg len.val) * s.regR.toNat) % (2 ^ 130 - 5) ∧
      t = { s with acc := t.acc, ppend := none, pbusy := false }

/-- P_FINAL completes: TAG is (ACC + S) mod 2^128, and ACC, R, S and all else are unchanged (44_poly1305_finalizer.md
R170). -/
def Obligations.PFinalComputesTheTag : Prop :=
  ∀ s : State, mover s = .pe →
    ∃ t, exec .pFinal s = .next t ∧ t.tag.toNat = (s.acc.toNat + s.regS.toNat) % 2 ^ 128 ∧
      t = { s with tag := t.tag, ppend := none, pbusy := false }

/-- The fold of a message in chunks, from the key load to the tag: P_KEY, then for each chunk HOST's words in MSG and a
P_BLOCK of its length, then P_FINAL, give TAG = (fold + S) mod 2^128 (43_poly1305_multiplier.md R163,
44_poly1305_finalizer.md R171). A chunk need not be full, wherever it stands (R163). -/
def Obligations.MacIsTheFoldOfItsChunks : Prop :=
  ∀ (s : State) (rest : List Agent) (chunks : List (Vector Word 4 × Fin 32)), s.sched = .pe :: rest →
    (∀ c ∈ chunks, LengthLegal c.2) →
    ∃ t u, exec .pKey s = .next t ∧
      exec .pFinal (chunks.foldl (fun v c => effectPBlock c.2.val { v with msg := c.1 }) t) = .next u ∧
      u.tag.toNat =
        (chunks.foldl
            (fun a c => ((a + chunkVal c.1 c.2.val) *
              (lew [s.pkey[0], s.pkey[1], s.pkey[2], s.pkey[3]] &&& 0x0ffffffc0ffffffc0ffffffc0fffffff)) % (2 ^ 130 - 5)) 0 +
          lew [s.pkey[4], s.pkey[5], s.pkey[6], s.pkey[7]]) % 2 ^ 128

/-- An empty message: P_KEY then P_FINAL gives TAG = S = LEW(PKEY[4..7]) and sets no error code (44_poly1305_finalizer.md
R172). -/
def Obligations.EmptyMessageTagIsS : Prop :=
  ∀ (s : State) (rest : List Agent), s.sched = .pe :: rest →
    ∃ t u, exec .pKey s = .next t ∧ exec .pFinal t = .next u ∧ u.tag = u.regS ∧
      u.tag.toNat = lew [s.pkey[4], s.pkey[5], s.pkey[6], s.pkey[7]] ∧ u.err = s.err ∧ u.errmult = s.errmult

/-- Consequences of the clamp: a clamped value is below 2^124, each of its 32-bit words is below 2^28, and clamping it again
changes nothing (42_poly1305_key.md R152). -/
def Obligations.ClampBoundsRAndIsIdempotent : Prop :=
  ∀ v : BitVec 128, (Machine.clamp v).toNat < 2 ^ 124 ∧
    (∀ i : Fin 4, (wordAt (Machine.clamp v) i).toNat < 2 ^ 28) ∧
    Machine.clamp (Machine.clamp v) = Machine.clamp v

/-- The chunk value is the sum of 2^(8j) times byte j for j below L, plus the marker 2^(8L), and it is at least 2^(8L) and
below 2^(8L+1) (43_poly1305_multiplier.md R161). -/
def Obligations.ChunkValueIsBytesBelowTheMarker : Prop :=
  ∀ (msg : Vector Word 4) (len : Fin 32), LengthLegal len →
    chunkVal msg len.val =
      ((List.range len.val).map fun j => 2 ^ (8 * j) * ((msg.toList.getD (j / 4) 0).toNat / 2 ^ (8 * (j % 4)) % 2 ^ 8)).sum
        + 2 ^ (8 * len.val) ∧
    2 ^ (8 * len.val) ≤ chunkVal msg len.val ∧ chunkVal msg len.val < 2 ^ (8 * len.val + 1)

/-- MSG bytes at positions ≥ L are ignored: two states that differ only in them get the same ACC
(43_poly1305_multiplier.md R160). -/
def Obligations.BytesBeyondTheLengthAreIgnored : Prop :=
  ∀ (len : Fin 32) (s : State) (msg : Vector Word 4), LengthLegal len → mover s = .pe →
    (∀ j, j < len.val → chunkByte msg j = chunkByte s.msg j) →
    ∃ t, exec (.pBlock len) s = .next t ∧ exec (.pBlock len) { s with msg := msg } = .next { t with msg := msg }

/-- Datapath bounds for every legal input: T < 2^131 and T·R < 2^255 (43_poly1305_multiplier.md R162). -/
def Obligations.ProductFitsTheDatapath : Prop :=
  ∀ (len : Fin 32) (s : State), LengthLegal len → s.acc.toNat < polyP → s.regR &&& ~~~clampMask = 0 →
    blockSum s.acc (chunkVal s.msg len.val) < 2 ^ 131 ∧
    blockSum s.acc (chunkVal s.msg len.val) * s.regR.toNat < 2 ^ 255

/-- The wide registers are the little-endian numbers of their window words: R, S, TAG of four, ACC of five whose last holds
two bits (10_state.md R26 to R29). -/
def Obligations.WideRegistersAreTheirWindowWords : Prop :=
  ∀ s : State,
    s.regR.toNat = lew [regValue (.pr 0) s, regValue (.pr 1) s, regValue (.pr 2) s, regValue (.pr 3) s] ∧
    s.regS.toNat = lew [regValue (.ps 0) s, regValue (.ps 1) s, regValue (.ps 2) s, regValue (.ps 3) s] ∧
    s.tag.toNat = lew [regValue (.tag 0) s, regValue (.tag 1) s, regValue (.tag 2) s, regValue (.tag 3) s] ∧
    s.acc.toNat = lew [regValue (.acc 0) s, regValue (.acc 1) s, regValue (.acc 2) s, regValue (.acc 3) s,
      regValue (.acc 4) s] ∧
    (regValue (.acc 4) s).toNat < 4

/-! ## The register window -/

/-- The register map of 20_memory.md R51: each register's offset is an admitted word offset and decodes to that register, and
no offset decodes to a register that stands elsewhere. -/
def Obligations.RegisterMapRoundTrips : Prop :=
  (∀ r : Reg, regAt (regOffset r) = some r ∧ admitted (regOffset r) 4 = true) ∧
  (∀ (off : Nat) (r : Reg), regAt off = some r → regOffset r = off)

/-- Reserved offsets read as 0x00000000 and ignore writes (20_memory.md R54, the ranges of R51); every other admitted offset
is a register's. -/
def Obligations.ReservedOffsetsReadZeroAndIgnoreWrites : Prop :=
  ∀ (off : Nat) (v : Word) (s : State), off % 4 = 0 → off < 0x200 →
    ((0x008 ≤ off ∧ off ≤ 0x03C ∨ 0x070 ≤ off ∧ off ≤ 0x07C ∨ 0x164 ≤ off ∧ off ≤ 0x16C ∨ 0x180 ≤ off ∧ off ≤ 0x1FC) →
      memRead off s = (0, s) ∧ memWrite off v s = .next s) ∧
    (¬ (0x008 ≤ off ∧ off ≤ 0x03C ∨ 0x070 ≤ off ∧ off ≤ 0x07C ∨ 0x164 ≤ off ∧ off ≤ 0x16C ∨ 0x180 ≤ off ∧ off ≤ 0x1FC) →
      ∃ r, regAt off = some r)

/-- `MemRead(off, 4)` row by row (20_memory.md R55): the register's value, or a draw from an output register of a busy
engine, or 0; and no side effect on any state of the core. That a draw is `Config.draw` at the count `draws`, which the read
may change, is the model's choice (log 4). -/
def Obligations.ReadReturnsTheRegisterOrADraw : Prop :=
  ∀ s : State,
    (memRead 0x000 s).1 = s.cmd ∧
    (memRead 0x004 s).1 = statusWord s ∧
    (∀ i : Fin 8, (memRead (0x040 + 4 * i) s).1 = s.ckey[i]) ∧
    (memRead 0x060 s).1 = s.cctr ∧
    (∀ i : Fin 3, (memRead (0x064 + 4 * i) s).1 = s.cnonce[i]) ∧
    (∀ i : Fin 16, (memRead (0x080 + 4 * i) s).1 = if s.cbusy then Config.draw s.draws else s.x[i]) ∧
    (∀ i : Fin 16, (memRead (0x0C0 + 4 * i) s).1 = if s.cbusy then Config.draw s.draws else s.saved[i]) ∧
    (∀ i : Fin 8, (memRead (0x100 + 4 * i) s).1 = s.pkey[i]) ∧
    (∀ i : Fin 4, (memRead (0x120 + 4 * i) s).1 = s.msg[i]) ∧
    (∀ i : Fin 4, (memRead (0x130 + 4 * i) s).1.toNat =
      if s.pbusy then (Config.draw s.draws).toNat else s.regR.toNat / 2 ^ (32 * i.val) % 2 ^ 32) ∧
    (∀ i : Fin 4, (memRead (0x140 + 4 * i) s).1.toNat =
      if s.pbusy then (Config.draw s.draws).toNat else s.regS.toNat / 2 ^ (32 * i.val) % 2 ^ 32) ∧
    (∀ i : Fin 4, (memRead (0x150 + 4 * i) s).1.toNat =
      if s.pbusy then (Config.draw s.draws).toNat else s.acc.toNat / 2 ^ (32 * i.val) % 2 ^ 32) ∧
    (memRead 0x160 s).1.toNat = (if s.pbusy then (Config.draw s.draws).toNat else s.acc.toNat / 2 ^ 128) ∧
    (∀ i : Fin 4, (memRead (0x170 + 4 * i) s).1.toNat =
      if s.pbusy then (Config.draw s.draws).toNat else s.tag.toNat / 2 ^ (32 * i.val) % 2 ^ 32) ∧
    (∀ off, (∀ r : Reg, regOffset r ≠ off) → (memRead off s).1 = 0x00000000) ∧
    (∀ off, (memRead off s).2 = { s with draws := (memRead off s).2.draws })

/-- A read changes no register and no other state of the core (20_memory.md R55, R58); and a step performs the admitted access
that HOST `k` makes next: a read appends the value of `MemRead` to that HOST's trace (30_encoding.md R86), a write is `MemWrite`
(20_memory.md R56), and around both the HOST moves on and the schedule's entry is used up (log 1). `draws` is the model's own
count (log 4). -/
def Obligations.StepPerformsTheAdmittedAccess : Prop :=
  (∀ (off : Nat) (s : State),
    (memRead off s).2 = { s with draws := (memRead off s).2.draws } ∧
    (∀ r : Reg, regValue r (memRead off s).2 = regValue r s)) ∧
  ∀ (s : State) (k off : Nat), mover s = .host k → admitted off 4 = true →
    (nextOp k s = some (.access (.read off 4)) →
      step s = .next { s with
        hosts := s.hosts.modify k fun h => { h with trace := h.trace ++ [(memRead off s).1], pos := h.pos + 1 }
        draws := (memRead off s).2.draws
        sched := s.sched.tail }) ∧
    (∀ v : Word, nextOp k s = some (.access (.write off 4 v)) →
      step s = onNext (fun t => tick (updateHost k HostState.advance t)) (memWrite off v s))

/-- `MemWrite(off, 4, v)` row by row (20_memory.md R56): the RW data registers store while their engine is idle and reject
with WRITE_BUSY while it is busy; the read-only ones and every other offset ignore the write; CMD issues. -/
def Obligations.WriteStoresRejectsOrIsIgnored : Prop :=
  ∀ (v : Word) (s : State),
    memWrite 0x000 v s = issue v s ∧
    (∀ i : Fin 8, memWrite (0x040 + 4 * i) v s =
      .next (if s.cbusy then reject .writeBusy s else { s with ckey := s.ckey.set i v })) ∧
    memWrite 0x060 v s = .next (if s.cbusy then reject .writeBusy s else { s with cctr := v }) ∧
    (∀ i : Fin 3, memWrite (0x064 + 4 * i) v s =
      .next (if s.cbusy then reject .writeBusy s else { s with cnonce := s.cnonce.set i v })) ∧
    (∀ i : Fin 16, memWrite (0x080 + 4 * i) v s =
      .next (if s.cbusy then reject .writeBusy s else { s with x := s.x.set i v })) ∧
    (∀ i : Fin 8, memWrite (0x100 + 4 * i) v s =
      .next (if s.pbusy then reject .writeBusy s else { s with pkey := s.pkey.set i v })) ∧
    (∀ i : Fin 4, memWrite (0x120 + 4 * i) v s =
      .next (if s.pbusy then reject .writeBusy s else { s with msg := s.msg.set i v })) ∧
    memWrite 0x004 v s = .next s ∧
    (∀ i : Fin 16, memWrite (0x0C0 + 4 * i) v s = .next s) ∧
    (∀ i : Fin 4, memWrite (0x130 + 4 * i) v s = .next s ∧ memWrite (0x140 + 4 * i) v s = .next s ∧
      memWrite (0x170 + 4 * i) v s = .next s) ∧
    (∀ i : Fin 5, memWrite (0x150 + 4 * i) v s = .next s) ∧
    (∀ off, (∀ r : Reg, regOffset r ≠ off) → memWrite off v s = .next s)

/-- A word written to an RW data register whose engine is idle is what the next read of that register returns, and every
byte of the window outside the register's four is as before, whatever the other engine does (20_memory.md R57, R60). -/
def Obligations.WrittenWordReadsBackAndNothingElseChanges : Prop :=
  ∀ (r : Reg) (v : Word) (s : State),
    (s.cbusy = false ∧ ((∃ i, r = .ckey i) ∨ r = .cctr ∨ (∃ i, r = .cnonce i) ∨ ∃ i, r = .state i)) ∨
      (s.pbusy = false ∧ ((∃ i, r = .pkey i) ∨ ∃ i, r = .msg i)) →
    ∃ t, memWrite (regOffset r) v s = .next t ∧ memRead (regOffset r) t = (v, t) ∧
      (∀ a, a < regOffset r ∨ regOffset r + 4 ≤ a → windowByte t a = windowByte s a)

/-- An access that is not a 32-bit one at a multiple of 4 below 0x200 has no effect on the core: it is recorded as a HOST
fault (20_memory.md R53, 60_exceptions.md R204). That the HOST then goes on is the model's choice (log 7). -/
def Obligations.BusErrorTouchesOnlyTheHost : Prop :=
  ∀ (s : State) (k off bytes : Nat) (v : Word), mover s = .host k → ¬ (bytes = 4 ∧ off % 4 = 0 ∧ off < 0x200) →
    nextOp k s = some (.access (.read off bytes)) ∨ nextOp k s = some (.access (.write off bytes v)) →
    step s = .next { s with
      hosts := s.hosts.modify k fun h => { h with fault := true, pos := h.pos + 1 }
      sched := s.sched.tail }

/-- A recorded HOST fault is never cleared, by any step, SRST and reset included (60_exceptions.md R204). -/
def Obligations.HostFaultIsNeverCleared : Prop :=
  ∀ (s t : State) (k : Nat) (h : HostState), step s = .next t → s.hosts[k]? = some h → h.fault = true →
    ∃ h', t.hosts[k]? = some h' ∧ h'.fault = true

/-- `STATUS = CBUSY | (PBUSY << 1) | (ERR << 8) | (ERRMULT << 12)`, and writes to it are ignored (10_state.md R32). -/
def Obligations.StatusIsTheViewOfItsFields : Prop :=
  ∀ (s : State) (v : Word),
    (statusWord s).toNat = s.cbusy.toNat + 2 ^ 1 * s.pbusy.toNat + 2 ^ 8 * s.err.toNat + 2 ^ 12 * s.errmult.toNat ∧
    memWrite 0x004 v s = .next s

/-- Byte order: keystream byte m stands at CORE_BASE + 0x080 + m and is bits of word m div 4, tag byte m at CORE_BASE + 0x170
+ m (20_memory.md R52, 41_chacha_block.md R127, 10_state.md R29). -/
def Obligations.WindowBytesAreLittleEndian : Prop :=
  ∀ s : State,
    (∀ m : Fin 64, ∃ b, byteAtAddress s (Config.coreBase + 0x080 + m) = some b ∧ (keystream s.x)[m.val]? = some b ∧
      b.toNat = (s.x.toList.getD (m.val / 4) 0).toNat / 2 ^ (8 * (m.val % 4)) % 2 ^ 8) ∧
    (∀ m : Fin 16, ∃ b, byteAtAddress s (Config.coreBase + 0x170 + m) = some b ∧
      b.toNat = s.tag.toNat / 2 ^ (8 * m.val) % 2 ^ 8) ∧
    (∀ addr, addr < Config.coreBase ∨ Config.coreBase + 0x200 ≤ addr → byteAtAddress s addr = none)

/-- `bset REG, bit, label` reads the register (a draw, if a read of it is one) and jumps if that bit of the value is 1; the
core's registers are unchanged (30_encoding.md R86; logs 4 and 19). -/
def Obligations.BsetJumpsOnTheBitItReads : Prop :=
  ∀ (s : State) (k target : Nat) (r : Reg) (bit : Fin 32) (h : HostState), mover s = .host k →
    s.hosts[k]? = some h → h.program[h.pos]? = some (.bset r bit target) →
    step s = .next { s with
      hosts := s.hosts.set k { h with
        pos := if (if readsDraw r s then Config.draw s.draws else regValue r s).getLsbD bit.val then target else h.pos + 1 }
      draws := if readsDraw r s then s.draws + 1 else s.draws
      sched := s.sched.tail }

/-! ## Errors -/

/-- `Reject(e)`: ERR takes the code if it was 0, otherwise ERRMULT becomes 1, and nothing else changes (60_exceptions.md
R202), with the codes of R203. -/
def Obligations.RejectionRecordsTheFirstCode : Prop :=
  (∀ (e : ErrCode) (s : State),
    (s.err = 0 → reject e s = { s with err := e.code }) ∧ (s.err ≠ 0 → reject e s = { s with errmult := true })) ∧
  ErrCode.illegalOp.code = 1 ∧ ErrCode.rsvdBits.code = 2 ∧ ErrCode.qrAlias.code = 3 ∧ ErrCode.badLen.code = 4 ∧
  ErrCode.busy.code = 5 ∧ ErrCode.writeBusy.code = 6

/-- The first error sticks: a step from a state with a recorded code leaves that code and does not clear ERRMULT, or it
clears both (60_exceptions.md R202). -/
def Obligations.FirstErrorIsNeverOverwritten : Prop :=
  ∀ s t : State, step s = .next t → s.err ≠ 0 →
    (t.err = s.err ∧ (s.errmult = true → t.errmult = true)) ∨ (t.err = 0 ∧ t.errmult = false)

/-- No command faults (60_exceptions.md R209), and no step is refused: every step answers a next state. That a step does so
too after a bus error of a HOST (log 7), for an agent with nothing to do (log 3), for a command that no word decodes to (log 14)
and where a busy bit and its slot disagree (log 15) is the model's choice. -/
def Obligations.EveryStepAnswersANextState : Prop :=
  (∀ s : State, ∃ t, step s = .next t) ∧ (∀ (i : Instr) (s : State), ∃ t, exec i s = .next t)

/-! ## Isolation and whole-machine rules -/

/-- A completion step stays in its engine's domain: CE's leaves every PE register, CMD, ERR, ERRMULT and CE's own inputs as
they were, and PE's the same the other way round (00_scope.md R3, 10_state.md R33, 20_memory.md R61). -/
def Obligations.CompletionStaysInItsDomain : Prop :=
  ∀ s t : State, Inv s → step s = .next t →
    (mover s = .ce → t = { s with
      x := t.x, saved := t.saved, cpend := none, cbusy := false, sched := s.sched.tail }) ∧
    (mover s = .pe → t = { s with
      regR := t.regR, regS := t.regS, acc := t.acc, tag := t.tag, ppend := none, pbusy := false, sched := s.sched.tail })

/-- The completion steps of CE and PE may come in either order: both orders end in the same state (20_memory.md R61). -/
def Obligations.CompletionsOfTheEnginesCommute : Prop :=
  ∀ (s : State) (rest : List Agent), Inv s →
    ∃ t, core.run 2 { s with sched := .ce :: .pe :: rest } = .next t ∧
      core.run 2 { s with sched := .pe :: .ce :: rest } = .next t

/-- A step that does not leave the whole reset state of the core changes SAVED only in CE's move, X only in CE's move or by a
HOST's write of one word of it while CE is idle, and R, S, ACC and TAG only in PE's move (10_state.md R22, R23, R26 to R30,
20_memory.md R57). What reset leaves of the HOSTs, the schedule and the draws is the model's (log 12). -/
def Obligations.OutputsChangeOnlyByTheirEngineOrReset : Prop :=
  ∀ s t : State, step s = .next t →
    t = { State.reset with hosts := t.hosts, sched := t.sched, draws := t.draws } ∨
    ((t.saved = s.saved ∨ mover s = .ce) ∧
      (t.x = s.x ∨ mover s = .ce ∨
        ∃ (k : Nat) (i : Fin 16) (v : Word), mover s = .host k ∧ s.cbusy = false ∧
          nextOp k s = some (.access (.write (0x080 + 4 * i) 4 v)) ∧ t.x = s.x.set i v) ∧
      ((t.regR = s.regR ∧ t.regS = s.regS ∧ t.acc = s.acc ∧ t.tag = s.tag) ∨ mover s = .pe))

/-- The inputs of a busy engine do not change under it. A step that does not leave the whole reset state of the core leaves
CKEY, CCTR, CNONCE as they are if CBUSY = 1, and PKEY, MSG if PBUSY = 1, and all of them in every move of CE or PE; and it
leaves X as it is if CBUSY = 1 and the move is not CE's (20_memory.md R61, 10_state.md R24, R25, 70_reset_and_hazards.md R235).
What reset leaves of the HOSTs, the schedule and the draws is the model's (log 12). -/
def Obligations.InputsOfABusyEngineAreStable : Prop :=
  ∀ s t : State, step s = .next t →
    t = { State.reset with hosts := t.hosts, sched := t.sched, draws := t.draws } ∨
    (((s.cbusy = true ∨ mover s = .ce ∨ mover s = .pe) →
        t.ckey = s.ckey ∧ t.cctr = s.cctr ∧ t.cnonce = s.cnonce) ∧
      (s.cbusy = true → mover s ≠ .ce → t.x = s.x) ∧
      ((s.pbusy = true ∨ mover s = .ce ∨ mover s = .pe) → t.pkey = s.pkey ∧ t.msg = s.msg))

/-- An accepted command is never cancelled except by SRST or reset: it stays in its slot until its engine moves
(60_exceptions.md R201). -/
def Obligations.AcceptedCommandIsNeverCancelled : Prop :=
  ∀ s t : State, step s = .next t →
    (∀ c, s.cbusy = true → s.cpend = some c →
      (t.cbusy = true ∧ t.cpend = some c) ∨ mover s = .ce ∨
      t = { State.reset with hosts := t.hosts, sched := t.sched, draws := t.draws }) ∧
    (∀ c, s.pbusy = true → s.ppend = some c →
      (t.pbusy = true ∧ t.ppend = some c) ∨ mover s = .pe ∨
      t = { State.reset with hosts := t.hosts, sched := t.sched, draws := t.draws })

/-! ## Invariants and progress -/

/-- The reset state satisfies every invariant (70_reset_and_hazards.md R232). -/
def Obligations.ResetStateSatisfiesTheInvariants : Prop :=
  Inv State.reset

/-- Every step from a state with the invariants of 10_state.md R36 gives a state with them. -/
def Obligations.EveryStepKeepsTheInvariants : Prop :=
  ∀ s t : State, Inv s → step s = .next t → Inv t

/-- Progress: from every state with the invariants, within the length of the schedule and two more steps, a state is reached
in which both engines are idle (20_memory.md R62). That a used-up schedule lets a busy engine move is the model's choice
(log 2). -/
def Obligations.EnginesBecomeIdle : Prop :=
  ∀ s : State, Inv s →
    ∃ n t, n ≤ s.sched.length + 2 ∧ core.run n s = .next t ∧ t.cbusy = false ∧ t.pbusy = false ∧
      t.cpend = none ∧ t.ppend = none
end

