-- ==== Sys2Proof/Laws/State.lean ====
section
/-!
SUPPORT. One lemma per field per update of State, so that no later proof unfolds a record update.
-/

namespace Sys2Proof.Machine

/-! ### tick -/

@[simp] theorem tick_cmd (s : State) : (tick s).cmd = s.cmd := rfl
@[simp] theorem tick_err (s : State) : (tick s).err = s.err := rfl
@[simp] theorem tick_errmult (s : State) : (tick s).errmult = s.errmult := rfl
@[simp] theorem tick_cbusy (s : State) : (tick s).cbusy = s.cbusy := rfl
@[simp] theorem tick_cpend (s : State) : (tick s).cpend = s.cpend := rfl
@[simp] theorem tick_ckey (s : State) : (tick s).ckey = s.ckey := rfl
@[simp] theorem tick_cctr (s : State) : (tick s).cctr = s.cctr := rfl
@[simp] theorem tick_cnonce (s : State) : (tick s).cnonce = s.cnonce := rfl
@[simp] theorem tick_x (s : State) : (tick s).x = s.x := rfl
@[simp] theorem tick_saved (s : State) : (tick s).saved = s.saved := rfl
@[simp] theorem tick_rc (s : State) : (tick s).rc = s.rc := rfl
@[simp] theorem tick_pbusy (s : State) : (tick s).pbusy = s.pbusy := rfl
@[simp] theorem tick_ppend (s : State) : (tick s).ppend = s.ppend := rfl
@[simp] theorem tick_pkey (s : State) : (tick s).pkey = s.pkey := rfl
@[simp] theorem tick_msg (s : State) : (tick s).msg = s.msg := rfl
@[simp] theorem tick_regR (s : State) : (tick s).regR = s.regR := rfl
@[simp] theorem tick_regS (s : State) : (tick s).regS = s.regS := rfl
@[simp] theorem tick_acc (s : State) : (tick s).acc = s.acc := rfl
@[simp] theorem tick_tag (s : State) : (tick s).tag = s.tag := rfl
@[simp] theorem tick_hosts (s : State) : (tick s).hosts = s.hosts := rfl
@[simp] theorem tick_sched (s : State) : (tick s).sched = s.sched.tail := rfl
@[simp] theorem tick_draws (s : State) : (tick s).draws = s.draws := rfl

/-! ### reject -/

@[simp] theorem reject_cmd (e : ErrCode) (s : State) : (reject e s).cmd = s.cmd := rfl
@[simp] theorem reject_err (e : ErrCode) (s : State) : (reject e s).err = errAfter e s := rfl
@[simp] theorem reject_errmult (e : ErrCode) (s : State) : (reject e s).errmult = errmultAfter s := rfl
@[simp] theorem reject_cbusy (e : ErrCode) (s : State) : (reject e s).cbusy = s.cbusy := rfl
@[simp] theorem reject_cpend (e : ErrCode) (s : State) : (reject e s).cpend = s.cpend := rfl
@[simp] theorem reject_ckey (e : ErrCode) (s : State) : (reject e s).ckey = s.ckey := rfl
@[simp] theorem reject_cctr (e : ErrCode) (s : State) : (reject e s).cctr = s.cctr := rfl
@[simp] theorem reject_cnonce (e : ErrCode) (s : State) : (reject e s).cnonce = s.cnonce := rfl
@[simp] theorem reject_x (e : ErrCode) (s : State) : (reject e s).x = s.x := rfl
@[simp] theorem reject_saved (e : ErrCode) (s : State) : (reject e s).saved = s.saved := rfl
@[simp] theorem reject_rc (e : ErrCode) (s : State) : (reject e s).rc = s.rc := rfl
@[simp] theorem reject_pbusy (e : ErrCode) (s : State) : (reject e s).pbusy = s.pbusy := rfl
@[simp] theorem reject_ppend (e : ErrCode) (s : State) : (reject e s).ppend = s.ppend := rfl
@[simp] theorem reject_pkey (e : ErrCode) (s : State) : (reject e s).pkey = s.pkey := rfl
@[simp] theorem reject_msg (e : ErrCode) (s : State) : (reject e s).msg = s.msg := rfl
@[simp] theorem reject_regR (e : ErrCode) (s : State) : (reject e s).regR = s.regR := rfl
@[simp] theorem reject_regS (e : ErrCode) (s : State) : (reject e s).regS = s.regS := rfl
@[simp] theorem reject_acc (e : ErrCode) (s : State) : (reject e s).acc = s.acc := rfl
@[simp] theorem reject_tag (e : ErrCode) (s : State) : (reject e s).tag = s.tag := rfl
@[simp] theorem reject_hosts (e : ErrCode) (s : State) : (reject e s).hosts = s.hosts := rfl
@[simp] theorem reject_sched (e : ErrCode) (s : State) : (reject e s).sched = s.sched := rfl
@[simp] theorem reject_draws (e : ErrCode) (s : State) : (reject e s).draws = s.draws := rfl

/-! ### clearErrors -/

@[simp] theorem clearErrors_cmd (s : State) : (clearErrors s).cmd = s.cmd := rfl
@[simp] theorem clearErrors_err (s : State) : (clearErrors s).err = 0 := rfl
@[simp] theorem clearErrors_errmult (s : State) : (clearErrors s).errmult = false := rfl
@[simp] theorem clearErrors_cbusy (s : State) : (clearErrors s).cbusy = s.cbusy := rfl
@[simp] theorem clearErrors_cpend (s : State) : (clearErrors s).cpend = s.cpend := rfl
@[simp] theorem clearErrors_ckey (s : State) : (clearErrors s).ckey = s.ckey := rfl
@[simp] theorem clearErrors_cctr (s : State) : (clearErrors s).cctr = s.cctr := rfl
@[simp] theorem clearErrors_cnonce (s : State) : (clearErrors s).cnonce = s.cnonce := rfl
@[simp] theorem clearErrors_x (s : State) : (clearErrors s).x = s.x := rfl
@[simp] theorem clearErrors_saved (s : State) : (clearErrors s).saved = s.saved := rfl
@[simp] theorem clearErrors_rc (s : State) : (clearErrors s).rc = s.rc := rfl
@[simp] theorem clearErrors_pbusy (s : State) : (clearErrors s).pbusy = s.pbusy := rfl
@[simp] theorem clearErrors_ppend (s : State) : (clearErrors s).ppend = s.ppend := rfl
@[simp] theorem clearErrors_pkey (s : State) : (clearErrors s).pkey = s.pkey := rfl
@[simp] theorem clearErrors_msg (s : State) : (clearErrors s).msg = s.msg := rfl
@[simp] theorem clearErrors_regR (s : State) : (clearErrors s).regR = s.regR := rfl
@[simp] theorem clearErrors_regS (s : State) : (clearErrors s).regS = s.regS := rfl
@[simp] theorem clearErrors_acc (s : State) : (clearErrors s).acc = s.acc := rfl
@[simp] theorem clearErrors_tag (s : State) : (clearErrors s).tag = s.tag := rfl
@[simp] theorem clearErrors_hosts (s : State) : (clearErrors s).hosts = s.hosts := rfl
@[simp] theorem clearErrors_sched (s : State) : (clearErrors s).sched = s.sched := rfl
@[simp] theorem clearErrors_draws (s : State) : (clearErrors s).draws = s.draws := rfl

/-! ### acceptCE -/

@[simp] theorem acceptCE_cmd (c : CECmd) (s : State) : (acceptCE c s).cmd = encode (ceInstr c) := rfl
@[simp] theorem acceptCE_err (c : CECmd) (s : State) : (acceptCE c s).err = s.err := rfl
@[simp] theorem acceptCE_errmult (c : CECmd) (s : State) : (acceptCE c s).errmult = s.errmult := rfl
@[simp] theorem acceptCE_cbusy (c : CECmd) (s : State) : (acceptCE c s).cbusy = true := rfl
@[simp] theorem acceptCE_cpend (c : CECmd) (s : State) : (acceptCE c s).cpend = some c := rfl
@[simp] theorem acceptCE_ckey (c : CECmd) (s : State) : (acceptCE c s).ckey = s.ckey := rfl
@[simp] theorem acceptCE_cctr (c : CECmd) (s : State) : (acceptCE c s).cctr = s.cctr := rfl
@[simp] theorem acceptCE_cnonce (c : CECmd) (s : State) : (acceptCE c s).cnonce = s.cnonce := rfl
@[simp] theorem acceptCE_x (c : CECmd) (s : State) : (acceptCE c s).x = s.x := rfl
@[simp] theorem acceptCE_saved (c : CECmd) (s : State) : (acceptCE c s).saved = s.saved := rfl
@[simp] theorem acceptCE_rc (c : CECmd) (s : State) : (acceptCE c s).rc = s.rc := rfl
@[simp] theorem acceptCE_pbusy (c : CECmd) (s : State) : (acceptCE c s).pbusy = s.pbusy := rfl
@[simp] theorem acceptCE_ppend (c : CECmd) (s : State) : (acceptCE c s).ppend = s.ppend := rfl
@[simp] theorem acceptCE_pkey (c : CECmd) (s : State) : (acceptCE c s).pkey = s.pkey := rfl
@[simp] theorem acceptCE_msg (c : CECmd) (s : State) : (acceptCE c s).msg = s.msg := rfl
@[simp] theorem acceptCE_regR (c : CECmd) (s : State) : (acceptCE c s).regR = s.regR := rfl
@[simp] theorem acceptCE_regS (c : CECmd) (s : State) : (acceptCE c s).regS = s.regS := rfl
@[simp] theorem acceptCE_acc (c : CECmd) (s : State) : (acceptCE c s).acc = s.acc := rfl
@[simp] theorem acceptCE_tag (c : CECmd) (s : State) : (acceptCE c s).tag = s.tag := rfl
@[simp] theorem acceptCE_hosts (c : CECmd) (s : State) : (acceptCE c s).hosts = s.hosts := rfl
@[simp] theorem acceptCE_sched (c : CECmd) (s : State) : (acceptCE c s).sched = s.sched := rfl
@[simp] theorem acceptCE_draws (c : CECmd) (s : State) : (acceptCE c s).draws = s.draws := rfl

/-! ### acceptPE -/

@[simp] theorem acceptPE_cmd (c : PECmd) (s : State) : (acceptPE c s).cmd = encode (peInstr c) := rfl
@[simp] theorem acceptPE_err (c : PECmd) (s : State) : (acceptPE c s).err = s.err := rfl
@[simp] theorem acceptPE_errmult (c : PECmd) (s : State) : (acceptPE c s).errmult = s.errmult := rfl
@[simp] theorem acceptPE_cbusy (c : PECmd) (s : State) : (acceptPE c s).cbusy = s.cbusy := rfl
@[simp] theorem acceptPE_cpend (c : PECmd) (s : State) : (acceptPE c s).cpend = s.cpend := rfl
@[simp] theorem acceptPE_ckey (c : PECmd) (s : State) : (acceptPE c s).ckey = s.ckey := rfl
@[simp] theorem acceptPE_cctr (c : PECmd) (s : State) : (acceptPE c s).cctr = s.cctr := rfl
@[simp] theorem acceptPE_cnonce (c : PECmd) (s : State) : (acceptPE c s).cnonce = s.cnonce := rfl
@[simp] theorem acceptPE_x (c : PECmd) (s : State) : (acceptPE c s).x = s.x := rfl
@[simp] theorem acceptPE_saved (c : PECmd) (s : State) : (acceptPE c s).saved = s.saved := rfl
@[simp] theorem acceptPE_rc (c : PECmd) (s : State) : (acceptPE c s).rc = s.rc := rfl
@[simp] theorem acceptPE_pbusy (c : PECmd) (s : State) : (acceptPE c s).pbusy = true := rfl
@[simp] theorem acceptPE_ppend (c : PECmd) (s : State) : (acceptPE c s).ppend = some c := rfl
@[simp] theorem acceptPE_pkey (c : PECmd) (s : State) : (acceptPE c s).pkey = s.pkey := rfl
@[simp] theorem acceptPE_msg (c : PECmd) (s : State) : (acceptPE c s).msg = s.msg := rfl
@[simp] theorem acceptPE_regR (c : PECmd) (s : State) : (acceptPE c s).regR = s.regR := rfl
@[simp] theorem acceptPE_regS (c : PECmd) (s : State) : (acceptPE c s).regS = s.regS := rfl
@[simp] theorem acceptPE_acc (c : PECmd) (s : State) : (acceptPE c s).acc = s.acc := rfl
@[simp] theorem acceptPE_tag (c : PECmd) (s : State) : (acceptPE c s).tag = s.tag := rfl
@[simp] theorem acceptPE_hosts (c : PECmd) (s : State) : (acceptPE c s).hosts = s.hosts := rfl
@[simp] theorem acceptPE_sched (c : PECmd) (s : State) : (acceptPE c s).sched = s.sched := rfl
@[simp] theorem acceptPE_draws (c : PECmd) (s : State) : (acceptPE c s).draws = s.draws := rfl

/-! ### retireCE -/

@[simp] theorem retireCE_cmd (s : State) : (retireCE s).cmd = s.cmd := rfl
@[simp] theorem retireCE_err (s : State) : (retireCE s).err = s.err := rfl
@[simp] theorem retireCE_errmult (s : State) : (retireCE s).errmult = s.errmult := rfl
@[simp] theorem retireCE_cbusy (s : State) : (retireCE s).cbusy = false := rfl
@[simp] theorem retireCE_cpend (s : State) : (retireCE s).cpend = none := rfl
@[simp] theorem retireCE_ckey (s : State) : (retireCE s).ckey = s.ckey := rfl
@[simp] theorem retireCE_cctr (s : State) : (retireCE s).cctr = s.cctr := rfl
@[simp] theorem retireCE_cnonce (s : State) : (retireCE s).cnonce = s.cnonce := rfl
@[simp] theorem retireCE_x (s : State) : (retireCE s).x = s.x := rfl
@[simp] theorem retireCE_saved (s : State) : (retireCE s).saved = s.saved := rfl
@[simp] theorem retireCE_rc (s : State) : (retireCE s).rc = 0 := rfl
@[simp] theorem retireCE_pbusy (s : State) : (retireCE s).pbusy = s.pbusy := rfl
@[simp] theorem retireCE_ppend (s : State) : (retireCE s).ppend = s.ppend := rfl
@[simp] theorem retireCE_pkey (s : State) : (retireCE s).pkey = s.pkey := rfl
@[simp] theorem retireCE_msg (s : State) : (retireCE s).msg = s.msg := rfl
@[simp] theorem retireCE_regR (s : State) : (retireCE s).regR = s.regR := rfl
@[simp] theorem retireCE_regS (s : State) : (retireCE s).regS = s.regS := rfl
@[simp] theorem retireCE_acc (s : State) : (retireCE s).acc = s.acc := rfl
@[simp] theorem retireCE_tag (s : State) : (retireCE s).tag = s.tag := rfl
@[simp] theorem retireCE_hosts (s : State) : (retireCE s).hosts = s.hosts := rfl
@[simp] theorem retireCE_sched (s : State) : (retireCE s).sched = s.sched := rfl
@[simp] theorem retireCE_draws (s : State) : (retireCE s).draws = s.draws := rfl

/-! ### retirePE -/

@[simp] theorem retirePE_cmd (s : State) : (retirePE s).cmd = s.cmd := rfl
@[simp] theorem retirePE_err (s : State) : (retirePE s).err = s.err := rfl
@[simp] theorem retirePE_errmult (s : State) : (retirePE s).errmult = s.errmult := rfl
@[simp] theorem retirePE_cbusy (s : State) : (retirePE s).cbusy = s.cbusy := rfl
@[simp] theorem retirePE_cpend (s : State) : (retirePE s).cpend = s.cpend := rfl
@[simp] theorem retirePE_ckey (s : State) : (retirePE s).ckey = s.ckey := rfl
@[simp] theorem retirePE_cctr (s : State) : (retirePE s).cctr = s.cctr := rfl
@[simp] theorem retirePE_cnonce (s : State) : (retirePE s).cnonce = s.cnonce := rfl
@[simp] theorem retirePE_x (s : State) : (retirePE s).x = s.x := rfl
@[simp] theorem retirePE_saved (s : State) : (retirePE s).saved = s.saved := rfl
@[simp] theorem retirePE_rc (s : State) : (retirePE s).rc = s.rc := rfl
@[simp] theorem retirePE_pbusy (s : State) : (retirePE s).pbusy = false := rfl
@[simp] theorem retirePE_ppend (s : State) : (retirePE s).ppend = none := rfl
@[simp] theorem retirePE_pkey (s : State) : (retirePE s).pkey = s.pkey := rfl
@[simp] theorem retirePE_msg (s : State) : (retirePE s).msg = s.msg := rfl
@[simp] theorem retirePE_regR (s : State) : (retirePE s).regR = s.regR := rfl
@[simp] theorem retirePE_regS (s : State) : (retirePE s).regS = s.regS := rfl
@[simp] theorem retirePE_acc (s : State) : (retirePE s).acc = s.acc := rfl
@[simp] theorem retirePE_tag (s : State) : (retirePE s).tag = s.tag := rfl
@[simp] theorem retirePE_hosts (s : State) : (retirePE s).hosts = s.hosts := rfl
@[simp] theorem retirePE_sched (s : State) : (retirePE s).sched = s.sched := rfl
@[simp] theorem retirePE_draws (s : State) : (retirePE s).draws = s.draws := rfl

/-! ### updateHost -/

@[simp] theorem updateHost_cmd (k : Nat) (f : HostState → HostState) (s : State) : (updateHost k f s).cmd = s.cmd := rfl
@[simp] theorem updateHost_err (k : Nat) (f : HostState → HostState) (s : State) : (updateHost k f s).err = s.err := rfl
@[simp] theorem updateHost_errmult (k : Nat) (f : HostState → HostState) (s : State) : (updateHost k f s).errmult = s.errmult := rfl
@[simp] theorem updateHost_cbusy (k : Nat) (f : HostState → HostState) (s : State) : (updateHost k f s).cbusy = s.cbusy := rfl
@[simp] theorem updateHost_cpend (k : Nat) (f : HostState → HostState) (s : State) : (updateHost k f s).cpend = s.cpend := rfl
@[simp] theorem updateHost_ckey (k : Nat) (f : HostState → HostState) (s : State) : (updateHost k f s).ckey = s.ckey := rfl
@[simp] theorem updateHost_cctr (k : Nat) (f : HostState → HostState) (s : State) : (updateHost k f s).cctr = s.cctr := rfl
@[simp] theorem updateHost_cnonce (k : Nat) (f : HostState → HostState) (s : State) : (updateHost k f s).cnonce = s.cnonce := rfl
@[simp] theorem updateHost_x (k : Nat) (f : HostState → HostState) (s : State) : (updateHost k f s).x = s.x := rfl
@[simp] theorem updateHost_saved (k : Nat) (f : HostState → HostState) (s : State) : (updateHost k f s).saved = s.saved := rfl
@[simp] theorem updateHost_rc (k : Nat) (f : HostState → HostState) (s : State) : (updateHost k f s).rc = s.rc := rfl
@[simp] theorem updateHost_pbusy (k : Nat) (f : HostState → HostState) (s : State) : (updateHost k f s).pbusy = s.pbusy := rfl
@[simp] theorem updateHost_ppend (k : Nat) (f : HostState → HostState) (s : State) : (updateHost k f s).ppend = s.ppend := rfl
@[simp] theorem updateHost_pkey (k : Nat) (f : HostState → HostState) (s : State) : (updateHost k f s).pkey = s.pkey := rfl
@[simp] theorem updateHost_msg (k : Nat) (f : HostState → HostState) (s : State) : (updateHost k f s).msg = s.msg := rfl
@[simp] theorem updateHost_regR (k : Nat) (f : HostState → HostState) (s : State) : (updateHost k f s).regR = s.regR := rfl
@[simp] theorem updateHost_regS (k : Nat) (f : HostState → HostState) (s : State) : (updateHost k f s).regS = s.regS := rfl
@[simp] theorem updateHost_acc (k : Nat) (f : HostState → HostState) (s : State) : (updateHost k f s).acc = s.acc := rfl
@[simp] theorem updateHost_tag (k : Nat) (f : HostState → HostState) (s : State) : (updateHost k f s).tag = s.tag := rfl
@[simp] theorem updateHost_hosts (k : Nat) (f : HostState → HostState) (s : State) : (updateHost k f s).hosts = s.hosts.modify k f := rfl
@[simp] theorem updateHost_sched (k : Nat) (f : HostState → HostState) (s : State) : (updateHost k f s).sched = s.sched := rfl
@[simp] theorem updateHost_draws (k : Nat) (f : HostState → HostState) (s : State) : (updateHost k f s).draws = s.draws := rfl

/-! ### coreReset -/

@[simp] theorem coreReset_cmd (s : State) : (coreReset s).cmd = State.reset.cmd := rfl
@[simp] theorem coreReset_err (s : State) : (coreReset s).err = State.reset.err := rfl
@[simp] theorem coreReset_errmult (s : State) : (coreReset s).errmult = State.reset.errmult := rfl
@[simp] theorem coreReset_cbusy (s : State) : (coreReset s).cbusy = State.reset.cbusy := rfl
@[simp] theorem coreReset_cpend (s : State) : (coreReset s).cpend = State.reset.cpend := rfl
@[simp] theorem coreReset_ckey (s : State) : (coreReset s).ckey = State.reset.ckey := rfl
@[simp] theorem coreReset_cctr (s : State) : (coreReset s).cctr = State.reset.cctr := rfl
@[simp] theorem coreReset_cnonce (s : State) : (coreReset s).cnonce = State.reset.cnonce := rfl
@[simp] theorem coreReset_x (s : State) : (coreReset s).x = State.reset.x := rfl
@[simp] theorem coreReset_saved (s : State) : (coreReset s).saved = State.reset.saved := rfl
@[simp] theorem coreReset_rc (s : State) : (coreReset s).rc = State.reset.rc := rfl
@[simp] theorem coreReset_pbusy (s : State) : (coreReset s).pbusy = State.reset.pbusy := rfl
@[simp] theorem coreReset_ppend (s : State) : (coreReset s).ppend = State.reset.ppend := rfl
@[simp] theorem coreReset_pkey (s : State) : (coreReset s).pkey = State.reset.pkey := rfl
@[simp] theorem coreReset_msg (s : State) : (coreReset s).msg = State.reset.msg := rfl
@[simp] theorem coreReset_regR (s : State) : (coreReset s).regR = State.reset.regR := rfl
@[simp] theorem coreReset_regS (s : State) : (coreReset s).regS = State.reset.regS := rfl
@[simp] theorem coreReset_acc (s : State) : (coreReset s).acc = State.reset.acc := rfl
@[simp] theorem coreReset_tag (s : State) : (coreReset s).tag = State.reset.tag := rfl
@[simp] theorem coreReset_hosts (s : State) : (coreReset s).hosts = s.hosts := rfl
@[simp] theorem coreReset_sched (s : State) : (coreReset s).sched = s.sched := rfl
@[simp] theorem coreReset_draws (s : State) : (coreReset s).draws = s.draws := rfl

/-! ### effectCcQr -/

@[simp] theorem effectCcQr_cmd (g : Group) (s : State) : (effectCcQr g s).cmd = s.cmd := by unfold effectCcQr; rfl
@[simp] theorem effectCcQr_err (g : Group) (s : State) : (effectCcQr g s).err = s.err := by unfold effectCcQr; rfl
@[simp] theorem effectCcQr_errmult (g : Group) (s : State) : (effectCcQr g s).errmult = s.errmult := by unfold effectCcQr; rfl
@[simp] theorem effectCcQr_cbusy (g : Group) (s : State) : (effectCcQr g s).cbusy = s.cbusy := by unfold effectCcQr; rfl
@[simp] theorem effectCcQr_cpend (g : Group) (s : State) : (effectCcQr g s).cpend = s.cpend := by unfold effectCcQr; rfl
@[simp] theorem effectCcQr_ckey (g : Group) (s : State) : (effectCcQr g s).ckey = s.ckey := by unfold effectCcQr; rfl
@[simp] theorem effectCcQr_cctr (g : Group) (s : State) : (effectCcQr g s).cctr = s.cctr := by unfold effectCcQr; rfl
@[simp] theorem effectCcQr_cnonce (g : Group) (s : State) : (effectCcQr g s).cnonce = s.cnonce := by unfold effectCcQr; rfl
@[simp] theorem effectCcQr_x (g : Group) (s : State) : (effectCcQr g s).x = applyGroup g s.x := rfl
@[simp] theorem effectCcQr_saved (g : Group) (s : State) : (effectCcQr g s).saved = s.saved := by unfold effectCcQr; rfl
@[simp] theorem effectCcQr_rc (g : Group) (s : State) : (effectCcQr g s).rc = s.rc := by unfold effectCcQr; rfl
@[simp] theorem effectCcQr_pbusy (g : Group) (s : State) : (effectCcQr g s).pbusy = s.pbusy := by unfold effectCcQr; rfl
@[simp] theorem effectCcQr_ppend (g : Group) (s : State) : (effectCcQr g s).ppend = s.ppend := by unfold effectCcQr; rfl
@[simp] theorem effectCcQr_pkey (g : Group) (s : State) : (effectCcQr g s).pkey = s.pkey := by unfold effectCcQr; rfl
@[simp] theorem effectCcQr_msg (g : Group) (s : State) : (effectCcQr g s).msg = s.msg := by unfold effectCcQr; rfl
@[simp] theorem effectCcQr_regR (g : Group) (s : State) : (effectCcQr g s).regR = s.regR := by unfold effectCcQr; rfl
@[simp] theorem effectCcQr_regS (g : Group) (s : State) : (effectCcQr g s).regS = s.regS := by unfold effectCcQr; rfl
@[simp] theorem effectCcQr_acc (g : Group) (s : State) : (effectCcQr g s).acc = s.acc := by unfold effectCcQr; rfl
@[simp] theorem effectCcQr_tag (g : Group) (s : State) : (effectCcQr g s).tag = s.tag := by unfold effectCcQr; rfl
@[simp] theorem effectCcQr_hosts (g : Group) (s : State) : (effectCcQr g s).hosts = s.hosts := by unfold effectCcQr; rfl
@[simp] theorem effectCcQr_sched (g : Group) (s : State) : (effectCcQr g s).sched = s.sched := by unfold effectCcQr; rfl
@[simp] theorem effectCcQr_draws (g : Group) (s : State) : (effectCcQr g s).draws = s.draws := by unfold effectCcQr; rfl

/-! ### effectCcInit -/

@[simp] theorem effectCcInit_cmd (s : State) : (effectCcInit s).cmd = s.cmd := by unfold effectCcInit; rfl
@[simp] theorem effectCcInit_err (s : State) : (effectCcInit s).err = s.err := by unfold effectCcInit; rfl
@[simp] theorem effectCcInit_errmult (s : State) : (effectCcInit s).errmult = s.errmult := by unfold effectCcInit; rfl
@[simp] theorem effectCcInit_cbusy (s : State) : (effectCcInit s).cbusy = s.cbusy := by unfold effectCcInit; rfl
@[simp] theorem effectCcInit_cpend (s : State) : (effectCcInit s).cpend = s.cpend := by unfold effectCcInit; rfl
@[simp] theorem effectCcInit_ckey (s : State) : (effectCcInit s).ckey = s.ckey := by unfold effectCcInit; rfl
@[simp] theorem effectCcInit_cctr (s : State) : (effectCcInit s).cctr = s.cctr := by unfold effectCcInit; rfl
@[simp] theorem effectCcInit_cnonce (s : State) : (effectCcInit s).cnonce = s.cnonce := by unfold effectCcInit; rfl
@[simp] theorem effectCcInit_x (s : State) : (effectCcInit s).x = initialState s.ckey s.cctr s.cnonce := rfl
@[simp] theorem effectCcInit_saved (s : State) : (effectCcInit s).saved = initialState s.ckey s.cctr s.cnonce := rfl
@[simp] theorem effectCcInit_rc (s : State) : (effectCcInit s).rc = s.rc := by unfold effectCcInit; rfl
@[simp] theorem effectCcInit_pbusy (s : State) : (effectCcInit s).pbusy = s.pbusy := by unfold effectCcInit; rfl
@[simp] theorem effectCcInit_ppend (s : State) : (effectCcInit s).ppend = s.ppend := by unfold effectCcInit; rfl
@[simp] theorem effectCcInit_pkey (s : State) : (effectCcInit s).pkey = s.pkey := by unfold effectCcInit; rfl
@[simp] theorem effectCcInit_msg (s : State) : (effectCcInit s).msg = s.msg := by unfold effectCcInit; rfl
@[simp] theorem effectCcInit_regR (s : State) : (effectCcInit s).regR = s.regR := by unfold effectCcInit; rfl
@[simp] theorem effectCcInit_regS (s : State) : (effectCcInit s).regS = s.regS := by unfold effectCcInit; rfl
@[simp] theorem effectCcInit_acc (s : State) : (effectCcInit s).acc = s.acc := by unfold effectCcInit; rfl
@[simp] theorem effectCcInit_tag (s : State) : (effectCcInit s).tag = s.tag := by unfold effectCcInit; rfl
@[simp] theorem effectCcInit_hosts (s : State) : (effectCcInit s).hosts = s.hosts := by unfold effectCcInit; rfl
@[simp] theorem effectCcInit_sched (s : State) : (effectCcInit s).sched = s.sched := by unfold effectCcInit; rfl
@[simp] theorem effectCcInit_draws (s : State) : (effectCcInit s).draws = s.draws := by unfold effectCcInit; rfl

/-! ### effectCcDround -/

@[simp] theorem effectCcDround_cmd (s : State) : (effectCcDround s).cmd = s.cmd := by unfold effectCcDround; rfl
@[simp] theorem effectCcDround_err (s : State) : (effectCcDround s).err = s.err := by unfold effectCcDround; rfl
@[simp] theorem effectCcDround_errmult (s : State) : (effectCcDround s).errmult = s.errmult := by unfold effectCcDround; rfl
@[simp] theorem effectCcDround_cbusy (s : State) : (effectCcDround s).cbusy = s.cbusy := by unfold effectCcDround; rfl
@[simp] theorem effectCcDround_cpend (s : State) : (effectCcDround s).cpend = s.cpend := by unfold effectCcDround; rfl
@[simp] theorem effectCcDround_ckey (s : State) : (effectCcDround s).ckey = s.ckey := by unfold effectCcDround; rfl
@[simp] theorem effectCcDround_cctr (s : State) : (effectCcDround s).cctr = s.cctr := by unfold effectCcDround; rfl
@[simp] theorem effectCcDround_cnonce (s : State) : (effectCcDround s).cnonce = s.cnonce := by unfold effectCcDround; rfl
@[simp] theorem effectCcDround_x (s : State) : (effectCcDround s).x = doubleRound s.x := rfl
@[simp] theorem effectCcDround_saved (s : State) : (effectCcDround s).saved = s.saved := by unfold effectCcDround; rfl
@[simp] theorem effectCcDround_rc (s : State) : (effectCcDround s).rc = s.rc := by unfold effectCcDround; rfl
@[simp] theorem effectCcDround_pbusy (s : State) : (effectCcDround s).pbusy = s.pbusy := by unfold effectCcDround; rfl
@[simp] theorem effectCcDround_ppend (s : State) : (effectCcDround s).ppend = s.ppend := by unfold effectCcDround; rfl
@[simp] theorem effectCcDround_pkey (s : State) : (effectCcDround s).pkey = s.pkey := by unfold effectCcDround; rfl
@[simp] theorem effectCcDround_msg (s : State) : (effectCcDround s).msg = s.msg := by unfold effectCcDround; rfl
@[simp] theorem effectCcDround_regR (s : State) : (effectCcDround s).regR = s.regR := by unfold effectCcDround; rfl
@[simp] theorem effectCcDround_regS (s : State) : (effectCcDround s).regS = s.regS := by unfold effectCcDround; rfl
@[simp] theorem effectCcDround_acc (s : State) : (effectCcDround s).acc = s.acc := by unfold effectCcDround; rfl
@[simp] theorem effectCcDround_tag (s : State) : (effectCcDround s).tag = s.tag := by unfold effectCcDround; rfl
@[simp] theorem effectCcDround_hosts (s : State) : (effectCcDround s).hosts = s.hosts := by unfold effectCcDround; rfl
@[simp] theorem effectCcDround_sched (s : State) : (effectCcDround s).sched = s.sched := by unfold effectCcDround; rfl
@[simp] theorem effectCcDround_draws (s : State) : (effectCcDround s).draws = s.draws := by unfold effectCcDround; rfl

/-! ### effectCcFeedfwd -/

@[simp] theorem effectCcFeedfwd_cmd (s : State) : (effectCcFeedfwd s).cmd = s.cmd := by unfold effectCcFeedfwd; rfl
@[simp] theorem effectCcFeedfwd_err (s : State) : (effectCcFeedfwd s).err = s.err := by unfold effectCcFeedfwd; rfl
@[simp] theorem effectCcFeedfwd_errmult (s : State) : (effectCcFeedfwd s).errmult = s.errmult := by unfold effectCcFeedfwd; rfl
@[simp] theorem effectCcFeedfwd_cbusy (s : State) : (effectCcFeedfwd s).cbusy = s.cbusy := by unfold effectCcFeedfwd; rfl
@[simp] theorem effectCcFeedfwd_cpend (s : State) : (effectCcFeedfwd s).cpend = s.cpend := by unfold effectCcFeedfwd; rfl
@[simp] theorem effectCcFeedfwd_ckey (s : State) : (effectCcFeedfwd s).ckey = s.ckey := by unfold effectCcFeedfwd; rfl
@[simp] theorem effectCcFeedfwd_cctr (s : State) : (effectCcFeedfwd s).cctr = s.cctr := by unfold effectCcFeedfwd; rfl
@[simp] theorem effectCcFeedfwd_cnonce (s : State) : (effectCcFeedfwd s).cnonce = s.cnonce := by unfold effectCcFeedfwd; rfl
@[simp] theorem effectCcFeedfwd_x (s : State) : (effectCcFeedfwd s).x = feedForward s.x s.saved := rfl
@[simp] theorem effectCcFeedfwd_saved (s : State) : (effectCcFeedfwd s).saved = s.saved := by unfold effectCcFeedfwd; rfl
@[simp] theorem effectCcFeedfwd_rc (s : State) : (effectCcFeedfwd s).rc = s.rc := by unfold effectCcFeedfwd; rfl
@[simp] theorem effectCcFeedfwd_pbusy (s : State) : (effectCcFeedfwd s).pbusy = s.pbusy := by unfold effectCcFeedfwd; rfl
@[simp] theorem effectCcFeedfwd_ppend (s : State) : (effectCcFeedfwd s).ppend = s.ppend := by unfold effectCcFeedfwd; rfl
@[simp] theorem effectCcFeedfwd_pkey (s : State) : (effectCcFeedfwd s).pkey = s.pkey := by unfold effectCcFeedfwd; rfl
@[simp] theorem effectCcFeedfwd_msg (s : State) : (effectCcFeedfwd s).msg = s.msg := by unfold effectCcFeedfwd; rfl
@[simp] theorem effectCcFeedfwd_regR (s : State) : (effectCcFeedfwd s).regR = s.regR := by unfold effectCcFeedfwd; rfl
@[simp] theorem effectCcFeedfwd_regS (s : State) : (effectCcFeedfwd s).regS = s.regS := by unfold effectCcFeedfwd; rfl
@[simp] theorem effectCcFeedfwd_acc (s : State) : (effectCcFeedfwd s).acc = s.acc := by unfold effectCcFeedfwd; rfl
@[simp] theorem effectCcFeedfwd_tag (s : State) : (effectCcFeedfwd s).tag = s.tag := by unfold effectCcFeedfwd; rfl
@[simp] theorem effectCcFeedfwd_hosts (s : State) : (effectCcFeedfwd s).hosts = s.hosts := by unfold effectCcFeedfwd; rfl
@[simp] theorem effectCcFeedfwd_sched (s : State) : (effectCcFeedfwd s).sched = s.sched := by unfold effectCcFeedfwd; rfl
@[simp] theorem effectCcFeedfwd_draws (s : State) : (effectCcFeedfwd s).draws = s.draws := by unfold effectCcFeedfwd; rfl

/-! ### effectPKey -/

@[simp] theorem effectPKey_cmd (s : State) : (effectPKey s).cmd = s.cmd := by unfold effectPKey; rfl
@[simp] theorem effectPKey_err (s : State) : (effectPKey s).err = s.err := by unfold effectPKey; rfl
@[simp] theorem effectPKey_errmult (s : State) : (effectPKey s).errmult = s.errmult := by unfold effectPKey; rfl
@[simp] theorem effectPKey_cbusy (s : State) : (effectPKey s).cbusy = s.cbusy := by unfold effectPKey; rfl
@[simp] theorem effectPKey_cpend (s : State) : (effectPKey s).cpend = s.cpend := by unfold effectPKey; rfl
@[simp] theorem effectPKey_ckey (s : State) : (effectPKey s).ckey = s.ckey := by unfold effectPKey; rfl
@[simp] theorem effectPKey_cctr (s : State) : (effectPKey s).cctr = s.cctr := by unfold effectPKey; rfl
@[simp] theorem effectPKey_cnonce (s : State) : (effectPKey s).cnonce = s.cnonce := by unfold effectPKey; rfl
@[simp] theorem effectPKey_x (s : State) : (effectPKey s).x = s.x := by unfold effectPKey; rfl
@[simp] theorem effectPKey_saved (s : State) : (effectPKey s).saved = s.saved := by unfold effectPKey; rfl
@[simp] theorem effectPKey_rc (s : State) : (effectPKey s).rc = s.rc := by unfold effectPKey; rfl
@[simp] theorem effectPKey_pbusy (s : State) : (effectPKey s).pbusy = s.pbusy := by unfold effectPKey; rfl
@[simp] theorem effectPKey_ppend (s : State) : (effectPKey s).ppend = s.ppend := by unfold effectPKey; rfl
@[simp] theorem effectPKey_pkey (s : State) : (effectPKey s).pkey = s.pkey := by unfold effectPKey; rfl
@[simp] theorem effectPKey_msg (s : State) : (effectPKey s).msg = s.msg := by unfold effectPKey; rfl
@[simp] theorem effectPKey_regR (s : State) : (effectPKey s).regR = clamp (keyLow s.pkey) := rfl
@[simp] theorem effectPKey_regS (s : State) : (effectPKey s).regS = keyHigh s.pkey := rfl
@[simp] theorem effectPKey_acc (s : State) : (effectPKey s).acc = 0 := rfl
@[simp] theorem effectPKey_tag (s : State) : (effectPKey s).tag = s.tag := by unfold effectPKey; rfl
@[simp] theorem effectPKey_hosts (s : State) : (effectPKey s).hosts = s.hosts := by unfold effectPKey; rfl
@[simp] theorem effectPKey_sched (s : State) : (effectPKey s).sched = s.sched := by unfold effectPKey; rfl
@[simp] theorem effectPKey_draws (s : State) : (effectPKey s).draws = s.draws := by unfold effectPKey; rfl

/-! ### effectPBlock -/

@[simp] theorem effectPBlock_cmd (n : Nat) (s : State) : (effectPBlock n s).cmd = s.cmd := by unfold effectPBlock; rfl
@[simp] theorem effectPBlock_err (n : Nat) (s : State) : (effectPBlock n s).err = s.err := by unfold effectPBlock; rfl
@[simp] theorem effectPBlock_errmult (n : Nat) (s : State) : (effectPBlock n s).errmult = s.errmult := by unfold effectPBlock; rfl
@[simp] theorem effectPBlock_cbusy (n : Nat) (s : State) : (effectPBlock n s).cbusy = s.cbusy := by unfold effectPBlock; rfl
@[simp] theorem effectPBlock_cpend (n : Nat) (s : State) : (effectPBlock n s).cpend = s.cpend := by unfold effectPBlock; rfl
@[simp] theorem effectPBlock_ckey (n : Nat) (s : State) : (effectPBlock n s).ckey = s.ckey := by unfold effectPBlock; rfl
@[simp] theorem effectPBlock_cctr (n : Nat) (s : State) : (effectPBlock n s).cctr = s.cctr := by unfold effectPBlock; rfl
@[simp] theorem effectPBlock_cnonce (n : Nat) (s : State) : (effectPBlock n s).cnonce = s.cnonce := by unfold effectPBlock; rfl
@[simp] theorem effectPBlock_x (n : Nat) (s : State) : (effectPBlock n s).x = s.x := by unfold effectPBlock; rfl
@[simp] theorem effectPBlock_saved (n : Nat) (s : State) : (effectPBlock n s).saved = s.saved := by unfold effectPBlock; rfl
@[simp] theorem effectPBlock_rc (n : Nat) (s : State) : (effectPBlock n s).rc = s.rc := by unfold effectPBlock; rfl
@[simp] theorem effectPBlock_pbusy (n : Nat) (s : State) : (effectPBlock n s).pbusy = s.pbusy := by unfold effectPBlock; rfl
@[simp] theorem effectPBlock_ppend (n : Nat) (s : State) : (effectPBlock n s).ppend = s.ppend := by unfold effectPBlock; rfl
@[simp] theorem effectPBlock_pkey (n : Nat) (s : State) : (effectPBlock n s).pkey = s.pkey := by unfold effectPBlock; rfl
@[simp] theorem effectPBlock_msg (n : Nat) (s : State) : (effectPBlock n s).msg = s.msg := by unfold effectPBlock; rfl
@[simp] theorem effectPBlock_regR (n : Nat) (s : State) : (effectPBlock n s).regR = s.regR := by unfold effectPBlock; rfl
@[simp] theorem effectPBlock_regS (n : Nat) (s : State) : (effectPBlock n s).regS = s.regS := by unfold effectPBlock; rfl
@[simp] theorem effectPBlock_acc (n : Nat) (s : State) : (effectPBlock n s).acc = BitVec.ofNat 130 (mulReduce (blockSum s.acc (chunkVal s.msg n)) s.regR) := rfl
@[simp] theorem effectPBlock_tag (n : Nat) (s : State) : (effectPBlock n s).tag = s.tag := by unfold effectPBlock; rfl
@[simp] theorem effectPBlock_hosts (n : Nat) (s : State) : (effectPBlock n s).hosts = s.hosts := by unfold effectPBlock; rfl
@[simp] theorem effectPBlock_sched (n : Nat) (s : State) : (effectPBlock n s).sched = s.sched := by unfold effectPBlock; rfl
@[simp] theorem effectPBlock_draws (n : Nat) (s : State) : (effectPBlock n s).draws = s.draws := by unfold effectPBlock; rfl

/-! ### effectPFinal -/

@[simp] theorem effectPFinal_cmd (s : State) : (effectPFinal s).cmd = s.cmd := by unfold effectPFinal; rfl
@[simp] theorem effectPFinal_err (s : State) : (effectPFinal s).err = s.err := by unfold effectPFinal; rfl
@[simp] theorem effectPFinal_errmult (s : State) : (effectPFinal s).errmult = s.errmult := by unfold effectPFinal; rfl
@[simp] theorem effectPFinal_cbusy (s : State) : (effectPFinal s).cbusy = s.cbusy := by unfold effectPFinal; rfl
@[simp] theorem effectPFinal_cpend (s : State) : (effectPFinal s).cpend = s.cpend := by unfold effectPFinal; rfl
@[simp] theorem effectPFinal_ckey (s : State) : (effectPFinal s).ckey = s.ckey := by unfold effectPFinal; rfl
@[simp] theorem effectPFinal_cctr (s : State) : (effectPFinal s).cctr = s.cctr := by unfold effectPFinal; rfl
@[simp] theorem effectPFinal_cnonce (s : State) : (effectPFinal s).cnonce = s.cnonce := by unfold effectPFinal; rfl
@[simp] theorem effectPFinal_x (s : State) : (effectPFinal s).x = s.x := by unfold effectPFinal; rfl
@[simp] theorem effectPFinal_saved (s : State) : (effectPFinal s).saved = s.saved := by unfold effectPFinal; rfl
@[simp] theorem effectPFinal_rc (s : State) : (effectPFinal s).rc = s.rc := by unfold effectPFinal; rfl
@[simp] theorem effectPFinal_pbusy (s : State) : (effectPFinal s).pbusy = s.pbusy := by unfold effectPFinal; rfl
@[simp] theorem effectPFinal_ppend (s : State) : (effectPFinal s).ppend = s.ppend := by unfold effectPFinal; rfl
@[simp] theorem effectPFinal_pkey (s : State) : (effectPFinal s).pkey = s.pkey := by unfold effectPFinal; rfl
@[simp] theorem effectPFinal_msg (s : State) : (effectPFinal s).msg = s.msg := by unfold effectPFinal; rfl
@[simp] theorem effectPFinal_regR (s : State) : (effectPFinal s).regR = s.regR := by unfold effectPFinal; rfl
@[simp] theorem effectPFinal_regS (s : State) : (effectPFinal s).regS = s.regS := by unfold effectPFinal; rfl
@[simp] theorem effectPFinal_acc (s : State) : (effectPFinal s).acc = s.acc := by unfold effectPFinal; rfl
@[simp] theorem effectPFinal_tag (s : State) : (effectPFinal s).tag = BitVec.ofNat 128 (s.acc.toNat + s.regS.toNat) := rfl
@[simp] theorem effectPFinal_hosts (s : State) : (effectPFinal s).hosts = s.hosts := by unfold effectPFinal; rfl
@[simp] theorem effectPFinal_sched (s : State) : (effectPFinal s).sched = s.sched := by unfold effectPFinal; rfl
@[simp] theorem effectPFinal_draws (s : State) : (effectPFinal s).draws = s.draws := by unfold effectPFinal; rfl

end Sys2Proof.Machine
end

