-- ==== Sys2Proof/Laws/Ops.lean ====
section
/-!
SUPPORT. One lemma per shared operation that says everything it can do; later proofs cite these and do not unfold.
-/

namespace Sys2Proof.Machine

/-! ### Outcomes -/

@[simp] theorem onNext_next (f : State → State) (s : State) : onNext f (.next s) = .next (f s) := rfl

theorem onNext_eq_next {f : State → State} {o : Host.Outcome State Fault Refusal} {t : State}
    (h : onNext f o = .next t) : ∃ u, o = .next u ∧ t = f u := by
  cases o with
  | next u => exact ⟨u, rfl, by simpa using h.symm⟩
  | fault r => cases h
  | refused r => cases h

/-! ### Rejection -/

theorem errAfter_of_clear {e : ErrCode} {s : State} (h : s.err = 0) : errAfter e s = e.code :=
  if_pos h

theorem errAfter_of_set {e : ErrCode} {s : State} (h : s.err ≠ 0) : errAfter e s = s.err :=
  if_neg h

theorem errmultAfter_of_clear {s : State} (h : s.err = 0) : errmultAfter s = s.errmult :=
  if_pos h

theorem errmultAfter_of_set {s : State} (h : s.err ≠ 0) : errmultAfter s = true :=
  if_neg h

theorem code_ne_zero (e : ErrCode) : e.code ≠ 0 := by
  cases e <;> decide

theorem errAfter_ne_zero (e : ErrCode) (s : State) : errAfter e s ≠ 0 := by
  by_cases h : s.err = 0
  · rw [errAfter_of_clear h]; exact code_ne_zero e
  · rwa [errAfter_of_set h]

/-! ### Operand checks -/

theorem operandError_eq_none_iff (i : Instr) : operandError i = none ↔ i.wellFormed = true := by
  cases i <;> simp [operandError, Instr.wellFormed]

/-! ### Engine commands -/

/-- Everything a CE command can do: it is rejected for its operands, it completes, it is rejected for BUSY, or it is
accepted. -/
theorem ceCommand_cases (c : CECmd) (f : State → State) (s : State) :
    (∃ e, operandError (ceInstr c) = some e ∧ ceCommand c f s = reject e s) ∨
    ((ceInstr c).wellFormed = true ∧ mover s = .ce ∧ ceCommand c f s = retireCE (f s)) ∨
    ((ceInstr c).wellFormed = true ∧ mover s ≠ .ce ∧ s.cbusy = true ∧ ceCommand c f s = reject .busy s) ∨
    ((ceInstr c).wellFormed = true ∧ mover s ≠ .ce ∧ s.cbusy = false ∧ ceCommand c f s = acceptCE c s) := by
  rw [← operandError_eq_none_iff]
  unfold ceCommand
  cases h : operandError (ceInstr c) with
  | some e => exact .inl ⟨e, rfl, rfl⟩
  | none =>
    by_cases hm : mover s = .ce
    · simp [hm]
    · cases hb : s.cbusy <;> simp [hm]

/-- Everything a PE command can do. -/
theorem peCommand_cases (c : PECmd) (f : State → State) (s : State) :
    (∃ e, operandError (peInstr c) = some e ∧ peCommand c f s = reject e s) ∨
    ((peInstr c).wellFormed = true ∧ mover s = .pe ∧ peCommand c f s = retirePE (f s)) ∨
    ((peInstr c).wellFormed = true ∧ mover s ≠ .pe ∧ s.pbusy = true ∧ peCommand c f s = reject .busy s) ∨
    ((peInstr c).wellFormed = true ∧ mover s ≠ .pe ∧ s.pbusy = false ∧ peCommand c f s = acceptPE c s) := by
  rw [← operandError_eq_none_iff]
  unfold peCommand
  cases h : operandError (peInstr c) with
  | some e => exact .inl ⟨e, rfl, rfl⟩
  | none =>
    by_cases hm : mover s = .pe
    · simp [hm]
    · cases hb : s.pbusy <;> simp [hm]

/-- The rule that CE's completion step applies for a pending command. -/
def ceEffect : CECmd → State → State
  | .init => effectCcInit
  | .qr a b c d => effectCcQr ⟨a, b, c, d⟩
  | .dround => effectCcDround
  | .rounds => effectCcRounds
  | .feedfwd => effectCcFeedfwd
  | .block => effectCcBlock

/-- The rule that PE's completion step applies for a pending command. -/
def peEffect : PECmd → State → State
  | .key => effectPKey
  | .block len => effectPBlock len.val
  | .final => effectPFinal

theorem exec_ceInstr (c : CECmd) (s : State) : exec (ceInstr c) s = .next (ceCommand c (ceEffect c) s) := by
  cases c <;> rfl

theorem exec_peInstr (c : PECmd) (s : State) : exec (peInstr c) s = .next (peCommand c (peEffect c) s) := by
  cases c <;> rfl

/-- An instruction is CLRERR, SRST, a CE command or a PE command. -/
theorem instr_cases (i : Instr) :
    i = .clrerr ∨ i = .srst ∨ (∃ c, i = ceInstr c) ∨ ∃ c, i = peInstr c := by
  cases i with
  | clrerr => simp
  | srst => simp
  | ccInit => exact .inr (.inr (.inl ⟨.init, rfl⟩))
  | ccQr a b c d => exact .inr (.inr (.inl ⟨.qr a b c d, rfl⟩))
  | ccDround => exact .inr (.inr (.inl ⟨.dround, rfl⟩))
  | ccRounds => exact .inr (.inr (.inl ⟨.rounds, rfl⟩))
  | ccFeedfwd => exact .inr (.inr (.inl ⟨.feedfwd, rfl⟩))
  | ccBlock => exact .inr (.inr (.inl ⟨.block, rfl⟩))
  | pKey => exact .inr (.inr (.inr ⟨.key, rfl⟩))
  | pBlock len => exact .inr (.inr (.inr ⟨.block len, rfl⟩))
  | pFinal => exact .inr (.inr (.inr ⟨.final, rfl⟩))

/-- Everything the execution of a command can do. -/
theorem exec_cases (i : Instr) (s : State) :
    (i = .clrerr ∧ exec i s = .next (clearErrors { s with cmd := encode .clrerr })) ∨
    (i = .srst ∧ exec i s = .next (coreReset s)) ∨
    (∃ e, exec i s = .next (reject e s)) ∨
    (∃ c, i = ceInstr c ∧ i.wellFormed = true ∧ mover s = .ce ∧ exec i s = .next (retireCE (ceEffect c s))) ∨
    (∃ c, i = ceInstr c ∧ i.wellFormed = true ∧ mover s ≠ .ce ∧ s.cbusy = false ∧ exec i s = .next (acceptCE c s)) ∨
    (∃ c, i = peInstr c ∧ i.wellFormed = true ∧ mover s = .pe ∧ exec i s = .next (retirePE (peEffect c s))) ∨
    (∃ c, i = peInstr c ∧ i.wellFormed = true ∧ mover s ≠ .pe ∧ s.pbusy = false ∧ exec i s = .next (acceptPE c s)) := by
  obtain rfl | rfl | ⟨c, rfl⟩ | ⟨c, rfl⟩ := instr_cases i
  · exact .inl ⟨rfl, rfl⟩
  · exact .inr (.inl ⟨rfl, rfl⟩)
  · rw [exec_ceInstr]
    obtain ⟨e, -, h⟩ | ⟨hw, hm, h⟩ | ⟨-, -, -, h⟩ | ⟨hw, hm, hb, h⟩ := ceCommand_cases c (ceEffect c) s <;> rw [h]
    · exact .inr (.inr (.inl ⟨e, rfl⟩))
    · exact .inr (.inr (.inr (.inl ⟨c, rfl, hw, hm, rfl⟩)))
    · exact .inr (.inr (.inl ⟨.busy, rfl⟩))
    · exact .inr (.inr (.inr (.inr (.inl ⟨c, rfl, hw, hm, hb, rfl⟩))))
  · rw [exec_peInstr]
    obtain ⟨e, -, h⟩ | ⟨hw, hm, h⟩ | ⟨-, -, -, h⟩ | ⟨hw, hm, hb, h⟩ := peCommand_cases c (peEffect c) s <;> rw [h]
    · exact .inr (.inr (.inl ⟨e, rfl⟩))
    · exact .inr (.inr (.inr (.inr (.inr (.inl ⟨c, rfl, hw, hm, rfl⟩)))))
    · exact .inr (.inr (.inl ⟨.busy, rfl⟩))
    · exact .inr (.inr (.inr (.inr (.inr (.inr ⟨c, rfl, hw, hm, hb, rfl⟩)))))

/-- In CE's own move a legal CE command completes. -/
theorem exec_ce_complete {c : CECmd} {s : State} (hw : (ceInstr c).wellFormed = true) (hm : mover s = .ce) :
    exec (ceInstr c) s = .next (retireCE (ceEffect c s)) := by
  rw [exec_ceInstr, ceCommand, (operandError_eq_none_iff _).2 hw]
  simp [hm]

/-- In PE's own move a legal PE command completes. -/
theorem exec_pe_complete {c : PECmd} {s : State} (hw : (peInstr c).wellFormed = true) (hm : mover s = .pe) :
    exec (peInstr c) s = .next (retirePE (peEffect c s)) := by
  rw [exec_peInstr, peCommand, (operandError_eq_none_iff _).2 hw]
  simp [hm]

/-! ### Reads and writes of registers -/

/-- A read changes the count of draws and nothing else. -/
theorem readReg_state (r : Reg) (s : State) :
    (readReg r s).2 = { s with draws := s.draws + if readsDraw r s then 1 else 0 } := by
  unfold readReg
  cases readsDraw r s <;> simp

theorem readReg_value (r : Reg) (s : State) :
    (readReg r s).1 = if readsDraw r s then Config.draw s.draws else regValue r s := by
  unfold readReg
  cases readsDraw r s <;> simp

/-- The draws a read at an offset takes. -/
def drawsTaken (off : Nat) (s : State) : Nat :=
  match regAt off with
  | some r => if readsDraw r s then 1 else 0
  | none => 0

theorem memRead_state (off : Nat) (s : State) :
    (memRead off s).2 = { s with draws := s.draws + drawsTaken off s } := by
  unfold memRead drawsTaken
  cases regAt off with
  | none => rfl
  | some r => exact readReg_state r s

theorem writeCE_cases (u s : State) :
    (s.cbusy = true ∧ writeCE u s = reject .writeBusy s) ∨ (s.cbusy = false ∧ writeCE u s = u) := by
  unfold writeCE
  cases s.cbusy <;> simp

theorem writePE_cases (u s : State) :
    (s.pbusy = true ∧ writePE u s = reject .writeBusy s) ∨ (s.pbusy = false ∧ writePE u s = u) := by
  unfold writePE
  cases s.pbusy <;> simp

/-- Everything a write to a register other than CMD can do: nothing, a rejection, a new value of the inputs of an idle
engine, or a new word of X while CE is idle. -/
theorem writeReg_cases (r : Reg) (v : Word) (s : State) :
    writeReg r v s = s ∨ writeReg r v s = reject .writeBusy s ∨
    (s.cbusy = false ∧ ∃ ck ct cn, writeReg r v s = { s with ckey := ck, cctr := ct, cnonce := cn }) ∨
    (s.cbusy = false ∧ ∃ i, r = .state i ∧ writeReg r v s = { s with x := s.x.set i v }) ∨
    (s.pbusy = false ∧ ∃ pk m, writeReg r v s = { s with pkey := pk, msg := m }) := by
  have ce : ∀ ck ct cn, ∀ u, u = writeCE { s with ckey := ck, cctr := ct, cnonce := cn } s →
      u = reject .writeBusy s ∨
      (s.cbusy = false ∧ ∃ ck ct cn, u = { s with ckey := ck, cctr := ct, cnonce := cn }) := by
    intro ck ct cn u hu
    obtain ⟨-, h⟩ | ⟨hb, h⟩ := writeCE_cases { s with ckey := ck, cctr := ct, cnonce := cn } s
    · exact .inl (hu.trans h)
    · exact .inr ⟨hb, ck, ct, cn, hu.trans h⟩
  have pe : ∀ pk m, ∀ u, u = writePE { s with pkey := pk, msg := m } s →
      u = reject .writeBusy s ∨ (s.pbusy = false ∧ ∃ pk m, u = { s with pkey := pk, msg := m }) := by
    intro pk m u hu
    obtain ⟨-, h⟩ | ⟨hb, h⟩ := writePE_cases { s with pkey := pk, msg := m } s
    · exact .inl (hu.trans h)
    · exact .inr ⟨hb, pk, m, hu.trans h⟩
  cases r with
  | ckey i => exact .inr ((ce _ s.cctr s.cnonce _ rfl).imp id .inl)
  | cctr => exact .inr ((ce s.ckey v s.cnonce _ rfl).imp id .inl)
  | cnonce i => exact .inr ((ce s.ckey s.cctr _ _ rfl).imp id .inl)
  | state i =>
    obtain ⟨-, h⟩ | ⟨hb, h⟩ := writeCE_cases { s with x := s.x.set i v } s
    · exact .inr (.inl h)
    · exact .inr (.inr (.inr (.inl ⟨hb, i, rfl, h⟩)))
  | pkey i => exact .inr ((pe _ s.msg _ rfl).imp id fun h => .inr (.inr h))
  | msg i => exact .inr ((pe s.pkey _ _ rfl).imp id fun h => .inr (.inr h))
  | cmd => exact .inl rfl
  | status => exact .inl rfl
  | saved i => exact .inl rfl
  | pr i => exact .inl rfl
  | ps i => exact .inl rfl
  | acc i => exact .inl rfl
  | tag i => exact .inl rfl

end Sys2Proof.Machine
end

