-- ==== Sys2Proof/Laws/Block.lean ====
section
/-!
SUPPORT. The sequencer of CC_ROUNDS: eighty steps of RC are ten double rounds (41_chacha_block.md R123, R124).
-/

namespace Sys2Proof.Machine

theorem sequencerStep_eq (s : State) :
    sequencerStep s = { s with x := applyGroup (scheduleEntry s.rc.val) s.x, rc := s.rc + 1 } := rfl

theorem sequencerRun_add (m n : Nat) (s : State) : sequencerRun (m + n) s = sequencerRun n (sequencerRun m s) := by
  induction m generalizing s with
  | zero => simp [sequencerRun]
  | succ m ih => rw [Nat.succ_add]; exact ih (sequencerStep s)

/-- The group of entry `8·k + j` does not depend on the double round `k`. -/
theorem scheduleEntry_mod (k j : Nat) : scheduleEntry (8 * k + j) = scheduleEntry j := by
  simp [scheduleEntry]

theorem doubleRound_eq (x : Vector Word 16) :
    doubleRound x = applyGroup (scheduleEntry 7) (applyGroup (scheduleEntry 6) (applyGroup (scheduleEntry 5)
      (applyGroup (scheduleEntry 4) (applyGroup (scheduleEntry 3) (applyGroup (scheduleEntry 2)
        (applyGroup (scheduleEntry 1) (applyGroup (scheduleEntry 0) x))))))) := by
  simp only [doubleRound, applyGroups, columnGroups, diagonalGroups, List.cons_append, List.nil_append, List.foldl_cons,
    List.foldl_nil, scheduleEntry, Nat.reduceMod, List.getD_cons_succ, List.getD_cons_zero]

/-- The sequencer changes X and RC only. -/
theorem sequencerRun_frame (n : Nat) (s : State) :
    sequencerRun n s = { s with x := (sequencerRun n s).x, rc := (sequencerRun n s).rc } := by
  induction n generalizing s with
  | zero => rfl
  | succ n ih => exact ih (sequencerStep s)

theorem sequencerStep_rc {s : State} {m : Nat} (h : s.rc.val = m) (hm : m < 80) :
    (sequencerStep s).rc.val = m + 1 := by
  rw [sequencerStep_eq]
  simp only [Fin.val_add, Fin.val_one, h]
  exact Nat.mod_eq_of_lt (by omega)

theorem sequencerStep_x {s : State} {k j : Nat} (h : s.rc.val = 8 * k + j) :
    (sequencerStep s).x = applyGroup (scheduleEntry j) s.x := by
  rw [sequencerStep_eq, h, scheduleEntry_mod]

/-- Eight steps from the start of double round `k` are that double round. -/
theorem sequencerRun_eight {s : State} {k : Nat} (hk : k < 10) (h : s.rc.val = 8 * k) :
    (sequencerRun 8 s).x = doubleRound s.x ∧ (sequencerRun 8 s).rc.val = 8 * k + 8 := by
  have r1 := sequencerStep_rc (m := 8 * k) h (by omega)
  have r2 := sequencerStep_rc r1 (by omega)
  have r3 := sequencerStep_rc r2 (by omega)
  have r4 := sequencerStep_rc r3 (by omega)
  have r5 := sequencerStep_rc r4 (by omega)
  have r6 := sequencerStep_rc r5 (by omega)
  have r7 := sequencerStep_rc r6 (by omega)
  have r8 := sequencerStep_rc r7 (by omega)
  refine ⟨?_, r8⟩
  simp only [sequencerRun]
  rw [sequencerStep_x (k := k) (j := 7) r7, sequencerStep_x (k := k) (j := 6) r6, sequencerStep_x (k := k) (j := 5) r5, sequencerStep_x (k := k) (j := 4) r4, sequencerStep_x (k := k) (j := 3) r3,
    sequencerStep_x (k := k) (j := 2) r2, sequencerStep_x (k := k) (j := 1) r1, sequencerStep_x (j := 0) h, doubleRound_eq]

/-- `8·n` more steps from the start of double round `k` are `n` double rounds. -/
theorem sequencerRun_rounds (n : Nat) {k : Nat} {s : State} (hk : k + n ≤ 10) (h : s.rc.val = 8 * k) :
    (sequencerRun (8 * n) s).x = doubleRounds n s.x ∧ (sequencerRun (8 * n) s).rc.val = 8 * (k + n) := by
  induction n generalizing k s with
  | zero => exact ⟨rfl, h⟩
  | succ n ih =>
    obtain ⟨hx, hr⟩ := sequencerRun_eight (by omega) h
    obtain ⟨ix, ir⟩ := ih (k := k + 1) (s := sequencerRun 8 s) (by omega) (by omega)
    rw [Nat.mul_succ, Nat.add_comm, sequencerRun_add]
    exact ⟨by rw [ix, hx]; rfl, by omega⟩

/-- The rule of CC_ROUNDS in one equation. -/
theorem effectCcRounds_eq (s : State) : effectCcRounds s = { s with x := doubleRounds 10 s.x, rc := 80 } := by
  have h := sequencerRun_rounds 10 (k := 0) (s := { s with rc := 0 }) (by omega) rfl
  have hx : (sequencerRun 80 { s with rc := 0 }).x = doubleRounds 10 s.x := h.1
  have hr : (sequencerRun 80 { s with rc := 0 }).rc = 80 := Fin.ext h.2
  unfold effectCcRounds
  rw [sequencerRun_frame, hx, hr]

/-- The rule of CC_BLOCK in one equation. -/
theorem effectCcBlock_eq (s : State) :
    effectCcBlock s =
      { s with
        x := feedForward (doubleRounds 10 (initialState s.ckey s.cctr s.cnonce)) (initialState s.ckey s.cctr s.cnonce)
        saved := initialState s.ckey s.cctr s.cnonce
        rc := 80 } := by
  unfold effectCcBlock
  rw [effectCcRounds_eq]
  rfl

end Sys2Proof.Machine
end

