-- ==== Sys2Proof/Laws/Bus.lean ====
section
/-!
SUPPORT. What one step can do, said once: `step_cases`.
-/

namespace Sys2Proof.Machine

/-- What a move can do to the core. `ceDone` and `peDone` are the completion steps. -/
inductive CoreMove (s : State) : State → Prop where
  | unchanged : CoreMove s s
  | rejected (e : ErrCode) : CoreMove s (reject e s)
  | cleared : CoreMove s (clearErrors { s with cmd := encode .clrerr })
  | reset : CoreMove s (coreReset s)
  | ceAccepted (c : CECmd) (wf : (ceInstr c).wellFormed = true) (idle : s.cbusy = false) (host : mover s ≠ .ce) :
      CoreMove s (acceptCE c s)
  | peAccepted (c : PECmd) (wf : (peInstr c).wellFormed = true) (idle : s.pbusy = false) (host : mover s ≠ .pe) :
      CoreMove s (acceptPE c s)
  | ceDone (c : CECmd) (wf : (ceInstr c).wellFormed = true) (busy : s.cbusy = true) (pending : s.cpend = some c)
      (turn : mover s = .ce) : CoreMove s (retireCE (ceEffect c s))
  | peDone (c : PECmd) (wf : (peInstr c).wellFormed = true) (busy : s.pbusy = true) (pending : s.ppend = some c)
      (turn : mover s = .pe) : CoreMove s (retirePE (peEffect c s))
  | ceInputs (idle : s.cbusy = false) (host : ∃ k, mover s = .host k) (ck : Vector Word 8) (ct : Word) (cn : Vector Word 3) :
      CoreMove s { s with ckey := ck, cctr := ct, cnonce := cn }
  | stateWord (idle : s.cbusy = false) (k off : Nat) (host : mover s = .host k) (i : Fin 16) (v : Word)
      (op : nextOp k s = some (.access (.write off 4 v))) (at_off : regAt off = some (.state i)) :
      CoreMove s { s with x := s.x.set i v }
  | peInputs (idle : s.pbusy = false) (host : ∃ k, mover s = .host k) (pk : Vector Word 8) (m : Vector Word 4) :
      CoreMove s { s with pkey := pk, msg := m }

/-- Executing a command in the move of a HOST. -/
theorem exec_host {i : Instr} {s t : State} {k : Nat} (hm : mover s = .host k) (h : exec i s = .next t) :
    CoreMove s t := by
  have nce : mover s ≠ .ce := by rw [hm]; simp
  have npe : mover s ≠ .pe := by rw [hm]; simp
  obtain ⟨-, e⟩ | ⟨-, e⟩ | ⟨c, e⟩ | ⟨c, -, -, hc, -⟩ | ⟨c, rfl, hw, -, hb, e⟩ | ⟨c, -, -, hc, -⟩ | ⟨c, rfl, hw, -, hb, e⟩ :=
    exec_cases i s
  · obtain rfl : _ = t := by simpa [e] using h
    exact .cleared
  · obtain rfl : _ = t := by simpa [e] using h
    exact .reset
  · obtain rfl : _ = t := by simpa [e] using h
    exact .rejected c
  · exact absurd hc nce
  · obtain rfl : _ = t := by simpa [e] using h
    exact .ceAccepted c hw hb nce
  · exact absurd hc npe
  · obtain rfl : _ = t := by simpa [e] using h
    exact .peAccepted c hw hb npe

theorem issue_host {v : Word} {s t : State} {k : Nat} (hm : mover s = .host k) (h : issue v s = .next t) :
    CoreMove s t := by
  unfold issue at h
  cases hd : decode v with
  | error e =>
    obtain rfl : _ = t := by simpa [hd] using h
    exact .rejected e
  | ok i => exact exec_host hm (by simpa [hd] using h)

theorem memWrite_host {off : Nat} {v : Word} {s t : State} {k : Nat} (hm : mover s = .host k)
    (op : nextOp k s = some (.access (.write off 4 v))) (h : memWrite off v s = .next t) : CoreMove s t := by
  unfold memWrite at h
  split at h
  · exact issue_host hm h
  · rename_i r _ hr
    obtain rfl : _ = t := by simpa using h
    obtain h | h | ⟨hb, ck, ct, cn, h⟩ | ⟨hb, i, rfl, h⟩ | ⟨hb, pk, m, h⟩ := writeReg_cases r v s <;> rw [h]
    · exact .unchanged
    · exact .rejected .writeBusy
    · exact .ceInputs hb ⟨k, hm⟩ ck ct cn
    · exact .stateWord hb k off hm i v op hr
    · exact .peInputs hb ⟨k, hm⟩ pk m
  · obtain rfl : _ = t := by simpa using h
    exact .unchanged

/-- The move of a HOST: something the core does, and changes to the HOSTs and the count of draws. -/
theorem hostMove_cases {s t : State} {k : Nat} (hm : mover s = .host k) (h : hostMove k s = .next t) :
    ∃ (u : State) (f : HostState → HostState) (n : Nat), CoreMove s u ∧ t = { u with hosts := s.hosts.modify k f, draws := n } ∧
      ∀ g : HostState, g.fault = true → (f g).fault = true := by
  have keep : ∀ u, CoreMove s u → u.hosts = s.hosts := by
    intro u hu
    cases hu with
    | unchanged => rfl
    | rejected e => rfl
    | cleared => rfl
    | reset => rfl
    | ceAccepted c => rfl
    | peAccepted c => rfl
    | ceDone c => rename_i turn; rw [hm] at turn; cases turn
    | peDone c => rename_i turn; rw [hm] at turn; cases turn
    | ceInputs => rfl
    | stateWord => rfl
    | peInputs => rfl
  unfold hostMove at h
  split at h
  · rename_i a ha
    cases a with
    | read off bytes =>
      simp only [busAccess] at h
      split at h
      · refine ⟨s, HostState.readBack (memRead off s).1, s.draws + drawsTaken off s, .unchanged, ?_, fun g hg => hg⟩
        obtain rfl : _ = t := by simpa using h
        rw [memRead_state]
        rfl
      · refine ⟨s, HostState.busError, s.draws, .unchanged, ?_, fun g hg => rfl⟩
        obtain rfl : _ = t := by simpa using h
        rfl
    | write off bytes v =>
      simp only [busAccess] at h
      split at h
      · rename_i hw
        obtain rfl : bytes = 4 := (of_decide_eq_true hw).1
        obtain ⟨u, hu, rfl⟩ := onNext_eq_next h
        have hc := memWrite_host hm ha hu
        refine ⟨u, HostState.advance, u.draws, hc, ?_, fun g hg => hg⟩
        rw [← keep u hc]
        rfl
      · refine ⟨s, HostState.busError, s.draws, .unchanged, ?_, fun g hg => rfl⟩
        obtain rfl : _ = t := by simpa using h
        rfl
  · rename_i r bit target _
    obtain rfl : _ = t := by simpa using h
    unfold branchIfSet
    split
    · exact ⟨s, HostState.jump target, _, .unchanged, by rw [readReg_state]; rfl, fun g hg => hg⟩
    · exact ⟨s, HostState.advance, _, .unchanged, by rw [readReg_state]; rfl, fun g hg => hg⟩
  · obtain rfl : _ = t := by simpa using h
    exact ⟨s, id, s.draws, .unchanged, by simp [List.modify_id], fun g hg => hg⟩

theorem ceMove_cases {s t : State} (hm : mover s = .ce) (h : ceMove s = .next t) : CoreMove s t := by
  unfold ceMove at h
  split at h
  · rename_i c hb hp
    rw [exec_ceInstr] at h
    obtain rfl : _ = t := by simpa using h
    obtain ⟨e, -, he⟩ | ⟨hw, -, he⟩ | ⟨-, hn, -, -⟩ | ⟨-, hn, -, -⟩ := ceCommand_cases c (ceEffect c) s
    · rw [he]; exact .rejected e
    · rw [he]; exact .ceDone c hw hb hp hm
    · exact absurd hm hn
    · exact absurd hm hn
  · obtain rfl : _ = t := by simpa using h
    exact .unchanged

theorem peMove_cases {s t : State} (hm : mover s = .pe) (h : peMove s = .next t) : CoreMove s t := by
  unfold peMove at h
  split at h
  · rename_i c hb hp
    rw [exec_peInstr] at h
    obtain rfl : _ = t := by simpa using h
    obtain ⟨e, -, he⟩ | ⟨hw, -, he⟩ | ⟨-, hn, -, -⟩ | ⟨-, hn, -, -⟩ := peCommand_cases c (peEffect c) s
    · rw [he]; exact .rejected e
    · rw [he]; exact .peDone c hw hb hp hm
    · exact absurd hm hn
    · exact absurd hm hn
  · obtain rfl : _ = t := by simpa using h
    exact .unchanged

/-- No completion step changes the schedule. -/
theorem ceEffect_sched (c : CECmd) (s : State) : (ceEffect c s).sched = s.sched := by
  cases c <;> simp [ceEffect, effectCcRounds_eq, effectCcBlock_eq]

theorem peEffect_sched (c : PECmd) (s : State) : (peEffect c s).sched = s.sched := by
  cases c <;> rfl

/-- The step of a CE that is busy with a legal command. -/
theorem step_ce_busy {c : CECmd} {s : State} (hm : mover s = .ce) (hb : s.cbusy = true) (hc : s.cpend = some c)
    (hw : (ceInstr c).wellFormed = true) : step s = .next { retireCE (ceEffect c s) with sched := s.sched.tail } := by
  simp only [step, hm, moveOf, ceMove, hb, hc, exec_ce_complete hw hm, onNext, tick, ceEffect_sched, retireCE]

/-- The step of a PE that is busy with a legal command. -/
theorem step_pe_busy {c : PECmd} {s : State} (hm : mover s = .pe) (hb : s.pbusy = true) (hc : s.ppend = some c)
    (hw : (peInstr c).wellFormed = true) : step s = .next { retirePE (peEffect c s) with sched := s.sched.tail } := by
  simp only [step, hm, moveOf, peMove, hb, hc, exec_pe_complete hw hm, onNext, tick, peEffect_sched, retirePE]

/-- The step of an idle engine, which does nothing. -/
theorem step_ce_idle {s : State} (hm : mover s = .ce) (hb : s.cbusy = false) :
    step s = .next { s with sched := s.sched.tail } := by
  simp only [step, hm, moveOf, ceMove, hb, onNext, tick]

theorem step_pe_idle {s : State} (hm : mover s = .pe) (hb : s.pbusy = false) :
    step s = .next { s with sched := s.sched.tail } := by
  simp only [step, hm, moveOf, peMove, hb, onNext, tick]

/-- Everything a step can do: something to the core, and changes to the HOSTs, the schedule and the count of draws. A HOST
fault that stood stands. -/
theorem step_cases {s t : State} (h : step s = .next t) :
    ∃ (u : State) (hosts : List HostState) (n : Nat), CoreMove s u ∧ t = { u with hosts := hosts, sched := s.sched.tail, draws := n } ∧
      ∀ (k : Nat) (g : HostState), s.hosts[k]? = some g → g.fault = true → ∃ g' : HostState, hosts[k]? = some g' ∧ g'.fault = true := by
  obtain ⟨w, hw, rfl⟩ := onNext_eq_next h
  cases hm : mover s with
  | host k =>
    rw [hm] at hw
    obtain ⟨u, f, n, hu, rfl, hf⟩ := hostMove_cases hm hw
    have hs : u.sched = s.sched := by
      cases hu <;> first | rfl | (rename_i turn; rw [hm] at turn; cases turn)
    refine ⟨u, s.hosts.modify k f, n, hu, by simp only [tick, hs], ?_⟩
    intro j g hj hg
    by_cases e : k = j
    · subst e
      exact ⟨f g, by simp [hj], hf g hg⟩
    · exact ⟨g, by simp [e, hj], hg⟩
  | ce =>
    rw [hm] at hw
    have hu := ceMove_cases hm hw
    have hh : w.hosts = s.hosts ∧ w.sched = s.sched := by
      cases hu <;> first | exact ⟨rfl, rfl⟩ | (rename_i c _ _ _ _; cases c <;> simp [ceEffect, peEffect, effectCcRounds_eq, effectCcBlock_eq])
    exact ⟨w, w.hosts, w.draws, hu, by simp only [tick, hh.2], fun k g hk hg => ⟨g, by rw [hh.1]; exact hk, hg⟩⟩
  | pe =>
    rw [hm] at hw
    have hu := peMove_cases hm hw
    have hh : w.hosts = s.hosts ∧ w.sched = s.sched := by
      cases hu <;> first | exact ⟨rfl, rfl⟩ | (rename_i c _ _ _ _; cases c <;> simp [ceEffect, peEffect, effectCcRounds_eq, effectCcBlock_eq])
    exact ⟨w, w.hosts, w.draws, hu, by simp only [tick, hh.2], fun k g hk hg => ⟨g, by rw [hh.1]; exact hk, hg⟩⟩
  | resetInput =>
    rw [hm] at hw
    obtain rfl : _ = w := by simpa [moveOf] using hw
    exact ⟨coreReset s, s.hosts, s.draws, .reset, rfl, fun k g hk hg => ⟨g, hk, hg⟩⟩

end Sys2Proof.Machine
end

