-- ==== Sys2Proof/Laws/Encoding.lean ====
section
/-!
SUPPORT. The encoder's words as numbers, and the fields a decoder reads from a word.
-/

namespace Sys2Proof

theorem operandBits_lt (i : Instr) : (opcode i).toNat + operandBits i < 2 ^ 32 := by
  cases i with
  | ccQr a b c d =>
    have := a.isLt; have := b.isLt; have := c.isLt; have := d.isLt
    simp only [opcode, operandBits, BitVec.toNat_ofNat]
    omega
  | pBlock len =>
    have := len.isLt
    simp only [opcode, operandBits, BitVec.toNat_ofNat]
    omega
  | _ => decide

/-- No bit of an encoding is lost: the word is the number OP plus the operand fields. -/
theorem encode_toNat (i : Instr) : (encode i).toNat = (opcode i).toNat + operandBits i := by
  simp only [encode, BitVec.toNat_ofNat]
  exact Nat.mod_eq_of_lt (operandBits_lt i)

/-- The operand fields stand above OP. -/
theorem operandBits_mod (i : Instr) : operandBits i % 2 ^ 8 = 0 := by
  cases i <;> simp only [operandBits] <;> omega

theorem bitField_val (w : Word) (lo len : Nat) : (bitField w lo len).val = w.toNat / 2 ^ lo % 2 ^ len := by
  simp [bitField, Nat.shiftRight_eq_div_pow]

/-- OP is the low byte of the command's word. -/
theorem opcode_field (i : Instr) : (encode i).extractLsb' 0 8 = opcode i := by
  apply BitVec.eq_of_toNat_eq
  have h := operandBits_mod i
  have := (opcode i).isLt
  simp only [BitVec.extractLsb'_toNat, encode_toNat, Nat.shiftRight_zero]
  omega

end Sys2Proof
end

