-- ==== Sys2Proof/Laws/PerInstr.lean ====
section
/-!
SUPPORT. A statement made per instruction: the low byte of the command's word is the OP of its row (30_encoding.md R80,
R82).
-/

namespace Sys2Proof.Laws.OpcodeField

/-- OP = bits 7:0 of the command word. -/
def Statement (i : Instr) : Prop :=
  (encode i).extractLsb' 0 8 = opcode i

theorem clrerr : Statement .clrerr := opcode_field _
theorem srst : Statement .srst := opcode_field _
theorem ccInit : Statement .ccInit := opcode_field _
theorem ccQr (a b c d : Fin 16) : Statement (.ccQr a b c d) := opcode_field _
theorem ccDround : Statement .ccDround := opcode_field _
theorem ccRounds : Statement .ccRounds := opcode_field _
theorem ccFeedfwd : Statement .ccFeedfwd := opcode_field _
theorem ccBlock : Statement .ccBlock := opcode_field _
theorem pKey : Statement .pKey := opcode_field _
theorem pBlock (len : Fin 32) : Statement (.pBlock len) := opcode_field _
theorem pFinal : Statement .pFinal := opcode_field _

end Sys2Proof.Laws.OpcodeField
end

