-- ==== Sys2Proof/Machine/HostProgram.lean ====
section
/-!
DEFINITION. HOST programs in the notation of 30_encoding.md R86 and R87. A fragment is a piece of a program that knows the
position it starts at, so that its labels are positions (log 19).
-/

namespace Sys2Proof.Machine

/-- A piece of a HOST program, given the position of its first operation. -/
abbrev Fragment := Nat → List HostOp

/-- Operations with no label. -/
def emit (ops : List HostOp) : Fragment :=
  fun _ => ops

/-- One fragment after another. -/
def andThen (f g : Fragment) : Fragment :=
  fun p => f p ++ g (p + (f p).length)

/-- Fragments one after another. -/
def inOrder (fs : List Fragment) : Fragment :=
  fs.foldr andThen (emit [])

/-- `wr REG, imm32` (30_encoding.md R86). -/
def wrOp (r : Reg) (v : Word) : HostOp :=
  .access (.write (regOffset r) 4 v)

/-- `rd REG` (30_encoding.md R86). -/
def rdOp (r : Reg) : HostOp :=
  .access (.read (regOffset r) 4)

/-- `cmd MNEMONIC operands` (30_encoding.md R86). -/
def cmdOp (i : Instr) : HostOp :=
  issueOp (encode i)

/-- `wait CE`: `L: bset STATUS, 0, L` (30_encoding.md R87). -/
def waitCE : Fragment :=
  fun p => [.bset .status 0 p]

/-- `wait PE`: `L: bset STATUS, 1, L` (30_encoding.md R87). -/
def waitPE : Fragment :=
  fun p => [.bset .status 1 p]

/-- `ccmd X` (30_encoding.md R87). -/
def ccmd (i : Instr) : Fragment :=
  andThen (emit [cmdOp i]) waitCE

/-- `pcmd X` (30_encoding.md R87). -/
def pcmd (i : Instr) : Fragment :=
  andThen (emit [cmdOp i]) waitPE

/-- One `ccmd CC_QR` for each group. -/
def ccQrs (gs : List Group) : Fragment :=
  inOrder (gs.map fun g => ccmd (.ccQr g.a g.b g.c g.d))

/-- `COLROUND` (30_encoding.md R87). -/
def colRound : Fragment :=
  ccQrs columnGroups

/-- `DIAGROUND` (30_encoding.md R87). -/
def diagRound : Fragment :=
  ccQrs diagonalGroups

/-- `ldkey k` (30_encoding.md R87). -/
def ldkey (k : List Byte) : Fragment :=
  emit ([0, 1, 2, 3, 4, 5, 6, 7].map fun i => wrOp (.ckey i) (wordOfBytes k i.val))

/-- `ldnonce n` (30_encoding.md R87). -/
def ldnonce (n : List Byte) : Fragment :=
  emit ([0, 1, 2].map fun i => wrOp (.cnonce i) (wordOfBytes n i.val))

/-- `ldpkey k` (30_encoding.md R87). -/
def ldpkey (k : List Byte) : Fragment :=
  emit ([0, 1, 2, 3, 4, 5, 6, 7].map fun i => wrOp (.pkey i) (wordOfBytes k i.val))

/-- `ldchunk c`: the chunk padded with zero bytes into MSG, then `pcmd P_BLOCK len(c)` (30_encoding.md R87; log 20). -/
def ldchunk (c : List Byte) : Fragment :=
  andThen (emit ([0, 1, 2, 3].map fun i => wrOp (.msg i) (wordOfBytes c i.val))) (pcmd (.pBlock (Fin.ofNat 32 c.length)))

/-- The first `fuel` chunks of 16 bytes of a message, the last one possibly shorter (43_poly1305_multiplier.md R163). -/
def chunksOf : Nat → List Byte → List (List Byte)
  | 0, _ => []
  | _ + 1, [] => []
  | fuel + 1, m => m.take 16 :: chunksOf fuel (m.drop 16)

/-- `mac k, m` (30_encoding.md R87). -/
def mac (k m : List Byte) : Fragment :=
  inOrder ([ldpkey k, pcmd .pKey] ++ (chunksOf m.length m).map ldchunk ++
    [pcmd .pFinal, emit [rdOp (.tag 0), rdOp (.tag 1), rdOp (.tag 2), rdOp (.tag 3)]])

/-- A HOST at the start of a program. -/
def hostOf (f : Fragment) : HostState :=
  { HostState.idle with program := f 0 }

end Sys2Proof.Machine
end

