-- ==== Sys2Proof/Tests/Slice0.lean ====
section
/-!
SUPPORT. Tests of the model: expected values are those of spec/ (the file is named at each test; the tables are
95_test_vectors.md's). After them, for every obligation with hypotheses, a witness that meets them.
-/

open Sys2Proof Sys2Proof.Machine

namespace Sys2Proof.Tests

/-! ## Helpers -/

/-- The next state, if the outcome is one. -/
def nextOf : Host.Outcome State Fault Refusal → Option State
  | .next s => some s
  | .fault _ => none
  | .refused _ => none

/-- A state in which CE moves next. -/
def ceTurn (s : State) : State := { s with sched := [.ce] }

/-- A state in which PE moves next. -/
def peTurn (s : State) : State := { s with sched := [.pe] }

/-- A state in which one HOST is at the start of a program, with an empty schedule. -/
def hostTurn (ops : List HostOp) (s : State) : State := { s with hosts := [hostOf (emit ops)] }

/-- CE is busy with a command. -/
def ceBusy (c : CECmd) : State := { State.reset with cbusy := true, cpend := some c }

/-- PE is busy with a command. -/
def peBusy (c : PECmd) : State := { State.reset with pbusy := true, ppend := some c }

/-- ERR = 3, ERRMULT = 1: STATUS = 0x00001300. -/
def twoErrors : State := { State.reset with err := 3, errmult := true }

/-- The inputs of 95_test_vectors.md section 1.2 (93_implementation_defined.md G2). -/
def blockInputs : State :=
  { State.reset with
    ckey := #v[0x03020100, 0x07060504, 0x0b0a0908, 0x0f0e0d0c, 0x13121110, 0x17161514, 0x1b1a1918, 0x1f1e1d1c]
    cctr := 1
    cnonce := #v[0x09000000, 0x4a000000, 0x00000000] }

/-- The "after CC_INIT" row of section 1.2. -/
def initRow : Vector Word 16 :=
  #v[0x61707865, 0x3320646e, 0x79622d32, 0x6b206574, 0x03020100, 0x07060504, 0x0b0a0908, 0x0f0e0d0c,
     0x13121110, 0x17161514, 0x1b1a1918, 0x1f1e1d1c, 0x00000001, 0x09000000, 0x4a000000, 0x00000000]

/-- The "after CC_ROUNDS from CC_INIT" row of section 1.2. -/
def roundsRow : Vector Word 16 :=
  #v[0x837778ab, 0xe238d763, 0xa67ae21e, 0x5950bb2f, 0xc4f2d0c7, 0xfc62bb2f, 0x8fa018fc, 0x3f5ec7b7,
     0x335271c2, 0xf29489f3, 0xeabda8fc, 0x82e46ebd, 0xd19c12b4, 0xb04e16de, 0x9e83d0cb, 0x4e3c50a2]

/-- The "CC_BLOCK output" row of section 1.2. -/
def blockRow : Vector Word 16 :=
  #v[0xe4e7f110, 0x15593bd1, 0x1fdd0f50, 0xc47120a3, 0xc7f4d1c7, 0x0368c033, 0x9aaa2204, 0x4e6cd4c3,
     0x466482d2, 0x09aa9f07, 0x05d7c214, 0xa2028bd9, 0xd19c12b5, 0xb94e16de, 0xe883d0cb, 0x4e3c50a2]

/-- The key of 95_test_vectors.md section 1.3, as PKEY0..7. -/
def macKey : Vector Word 8 :=
  #v[0x78bed685, 0x336d5557, 0xfe52447f, 0xa806d542, 0x8a800301, 0xfdb20dfb, 0xaff6bf4a, 0x1bf54941]

/-- The given ACC, R and MSG, before a P_BLOCK. -/
def multiplier (acc r : Nat) (msg : Vector Word 4) : State :=
  { State.reset with acc := BitVec.ofNat 130 acc, regR := BitVec.ofNat 128 r, msg := msg }

/-- ACC after P_BLOCK completes. -/
def accAfter (len : Fin 32) (s : State) : Option Nat :=
  (nextOf (exec (.pBlock len) (peTurn s))).map fun t => t.acc.toNat

/-- STATUS and CMD after HOST writes `w` to CMD. -/
def afterCommand (w : Word) (s : State) : Option (Word × Word) :=
  (nextOf (step (hostTurn [issueOp w] { s with sched := [.host 0] }))).map fun t => (statusWord t, t.cmd)

/-! ## WellFormed: each check refuses an ill-formed term (30_encoding.md R83) -/

theorem test_wellFormed_refuses_aliased_slots :
    (Instr.ccQr 1 1 2 3).wellFormed = false ∧ (Instr.ccQr 1 2 1 3).wellFormed = false ∧
    (Instr.ccQr 1 2 3 1).wellFormed = false ∧ (Instr.ccQr 3 1 1 2).wellFormed = false ∧
    (Instr.ccQr 3 1 2 1).wellFormed = false ∧ (Instr.ccQr 3 2 1 1).wellFormed = false := by decide

theorem test_wellFormed_refuses_length_zero : (Instr.pBlock 0).wellFormed = false := by decide

theorem test_wellFormed_refuses_length_seventeen :
    (Instr.pBlock 17).wellFormed = false ∧ (Instr.pBlock 31).wellFormed = false := by decide

theorem test_wellFormed_accepts_the_bounds :
    (Instr.pBlock 1).wellFormed = true ∧ (Instr.pBlock 16).wellFormed = true ∧
    (Instr.ccQr 15 0 7 3).wellFormed = true := by decide

/-! ## Decode: words written out from the formats of 30_encoding.md R80, R82 -/

/-- Format N: OP in bits 7:0, bits 31:8 zero. -/
theorem test_decode_format_n :
    decode 0b00000000000000000000000000000001 = .ok .clrerr ∧
    decode 0b00000000000000000000000000000010 = .ok .srst ∧
    decode 0b00000000000000000000000000010000 = .ok .ccInit ∧
    decode 0b00000000000000000000000000010010 = .ok .ccDround ∧
    decode 0b00000000000000000000000000010011 = .ok .ccRounds ∧
    decode 0b00000000000000000000000000010100 = .ok .ccFeedfwd ∧
    decode 0b00000000000000000000000000010101 = .ok .ccBlock ∧
    decode 0b00000000000000000000000000100000 = .ok .pKey ∧
    decode 0b00000000000000000000000000100010 = .ok .pFinal := ⟨rfl, rfl, rfl, rfl, rfl, rfl, rfl, rfl, rfl⟩

/-- Format Q: `00000000ddddccccbbbbaaaa00010001`. -/
theorem test_decode_format_q :
    decode 0b00000000_0111_0110_0101_0100_00010001 = .ok (.ccQr 4 5 6 7) ∧
    decode 0b00000000_0011_0111_0000_1111_00010001 = .ok (.ccQr 15 0 7 3) := ⟨rfl, rfl⟩

/-- Format L: `0000000000000000000lllll00100001`. -/
theorem test_decode_format_l :
    decode 0b0000000000000000000_00001_00100001 = .ok (.pBlock 1) ∧
    decode 0b0000000000000000000_10000_00100001 = .ok (.pBlock 16) := ⟨rfl, rfl⟩

/-- The CC_QR words of the schedule table (41_chacha_block.md R124) are COLROUND and DIAGROUND of 30_encoding.md R87. -/
theorem test_encode_schedule_words :
    (colRound 0 ++ diagRound 0).filterMap (fun o => match o with | .access (.write 0 4 w) => some w | _ => none) =
      [0x00c84011, 0x00d95111, 0x00ea6211, 0x00fb7311, 0x00fa5011, 0x00cb6111, 0x00d87211, 0x00e94311] := by decide

/-- The wait loop reads STATUS: `wait CE` at position 3 is one jump to itself on bit 0 (30_encoding.md R87). -/
theorem test_wait_jumps_to_itself :
    ccmd .ccBlock 2 = [issueOp 0x00000015, .bset .status 0 3] := by decide

/-- Words that are rejected, with their codes (95_test_vectors.md sections 2.1, 2.2, 2.4). -/
theorem test_decode_rejects :
    decode 0x0000ff11 = .error .qrAlias ∧ decode 0x80000015 = .error .rsvdBits ∧ decode 0x00000110 = .error .rsvdBits ∧
    decode 0x00000016 = .error .illegalOp ∧ decode 0x0000001f = .error .illegalOp ∧ decode 0 = .error .illegalOp ∧
    decode 0x00001121 = .error .badLen ∧ decode 0x00002021 = .error .rsvdBits ∧ decode 0x0000e021 = .error .rsvdBits :=
  ⟨rfl, rfl, rfl, rfl, rfl, rfl, rfl, rfl, rfl⟩

/-- Byte lane 0 is the least significant byte (20_memory.md R52). -/
theorem test_decodeTableWord : decodeTableWord 32 0x00765411 = some (.ccQr 4 5 6 7) ∧
    decodeTableWord 32 0x00000121 = some (.pBlock 1) ∧ decodeTableWord 32 0x00000021 = none := by decide

/-! ## A placed word is what the next step runs -/

theorem test_withFetchWord_issues_ccBlock :
    (nextOf (step (State.reset.withFetchWord 32 0x00000015))).map (fun t => (t.cpend, t.cbusy, t.cmd)) =
      some (some .block, true, 0x00000015) := by decide

theorem test_withFetchWord_issues_pBlock :
    (nextOf (step (State.reset.withFetchWord 32 0x00001021))).map (fun t => (t.ppend, t.pbusy, t.cmd)) =
      some (some (.block 16), true, 0x00001021) := by decide

/-! ## Control commands, errors and the bus (95_test_vectors.md section 2.6) -/

theorem test_clrerr : afterCommand 0x00000001 twoErrors = some (0x00000000, 0x00000001) := by decide

theorem test_clrerr_with_a_reserved_bit :
    afterCommand 0x00000101 { State.reset with err := 3 } = some (0x00001300, 0x00000000) := by decide

theorem test_srst_while_busy : afterCommand 0x00000002 (ceBusy .block) = some (0x00000000, 0x00000000) := by decide

theorem test_srst_zeroes : (nextOf (exec .srst { blockInputs with cbusy := true, cpend := some .block })).map
    (fun t => (t.ckey, t.cctr, t.cbusy, t.cpend)) = some (Vector.replicate 8 0, 0, false, none) := by decide

theorem test_illegal_op : afterCommand 0x000000ff State.reset = some (0x00000100, 0x00000000) ∧
    afterCommand 0x00000003 { State.reset with err := 1 } = some (0x00001100, 0x00000000) := by decide

/-- BUSY is ERR = 5; CBUSY is bit 0. -/
theorem test_busy : afterCommand 0x00000013 (ceBusy .init) = some (0x00000501, 0x00000000) := by decide

/-- BAD_LEN comes before BUSY; PBUSY is bit 1. -/
theorem test_bad_len_before_busy : afterCommand 0x00000021 (peBusy .key) = some (0x00000402, 0x00000000) := by decide

/-- The engines are independent. -/
theorem test_pe_command_while_ce_busy : afterCommand 0x00000020 (ceBusy .block) = some (0x00000003, 0x00000020) := by
  decide

theorem test_write_busy :
    (nextOf (memWrite 0x040 7 (ceBusy .block))).map (fun t => (statusWord t, t.ckey[0])) = some (0x00000601, 0) ∧
    (nextOf (memWrite 0x128 7 (peBusy .key))).map (fun t => (statusWord t, t.msg[2])) = some (0x00000602, 0) := by decide

theorem test_write_of_the_other_engine_is_stored :
    (nextOf (memWrite 0x100 7 (ceBusy .block))).map (fun t => (statusWord t, t.pkey[0])) = some (0x00000001, 7) := by
  decide

theorem test_read_only_and_reserved_ignore_writes :
    [0x0C0, 0x130, 0x160, 0x17C, 0x004, 0x180].map (fun off => nextOf (memWrite off 7 blockInputs)) =
      List.replicate 6 (some blockInputs) := by decide

theorem test_reserved_reads_zero :
    [0x008, 0x070, 0x164, 0x1fc].map (fun off => (memRead off blockInputs).1) = [0, 0, 0, 0] := by decide

/-- A narrow access and a misaligned one are HOST faults with no core effect. -/
theorem test_bus_error :
    (nextOf (step (hostTurn [.access (.write 0x040 1 7)] State.reset))).map (fun t => (t.hosts.map (·.fault), t.ckey[0])) =
      some ([true], 0) ∧
    (nextOf (step (hostTurn [.access (.read 0x002 4)] State.reset))).map (fun t => (t.hosts.map (·.fault), t.err)) =
      some ([true], 0) := by decide

/-- `rd` appends the value read to the trace. -/
theorem test_rd_appends_to_the_trace :
    (nextOf (step (hostTurn [rdOp (.ckey 1)] blockInputs))).map (fun t => t.hosts.map (·.trace)) =
      some [[0x07060504]] := by decide

/-- Two HOSTs, two engines: the schedule says who moves (20_memory.md R61, R67). -/
theorem test_schedule_picks_the_agent :
    (nextOf (step { ceBusy .init with sched := [.ce] })).map (fun t => (t.cbusy, t.x[0], t.sched)) =
      some (false, 0x61707865, []) := by decide

/-! ## Quarter-round and block transform (95_test_vectors.md sections 1.1, 1.2, 2.1, 2.2) -/

theorem test_quarter_round_source_vector :
    quarterRound (0x11111111, 0x01020304, 0x9b8d6f43, 0x01234567) = (0xea2a92f4, 0xcb1cf8ce, 0x4581472e, 0x5881c4bb) := by
  decide

theorem test_quarter_round_corners :
    quarterRound (0xffffffff, 0xffffffff, 0xffffffff, 0xffffffff) = (0xf0000ffd, 0x88790878, 0x0110fdef, 0x010ffdf0) ∧
    quarterRound (0x00000001, 0, 0, 0) = (0x10000001, 0x80808808, 0x01010110, 0x01000110) ∧
    quarterRound (0, 0x00000001, 0, 0) = (0x10001001, 0x88888808, 0x01110110, 0x01100110) ∧
    quarterRound (0, 0, 0x00000001, 0) = (0x00001000, 0x08080080, 0x00100001, 0x00100000) ∧
    quarterRound (0, 0, 0, 0x00000001) = (0x10000000, 0x80800808, 0x01010010, 0x01000010) ∧
    quarterRound (0x80000000, 0x80000000, 0, 0) = (0x00000800, 0x04040000, 0x00080000, 0x00080000) ∧
    quarterRound (0xdeadbeef, 0x01234567, 0x89abcdef, 0xfedcba98) = (0x8a8ab8eb, 0xd530d293, 0x8d13d530, 0x4499e634) := by
  decide

theorem test_ccQr_slots :
    (nextOf (exec (.ccQr 15 0 7 3) (ceTurn { State.reset with x := Vector.ofFn fun i => BitVec.ofNat 32 (i.val * 0x01010101) }))).map
      (fun t => (t.x[15], t.x[0], t.x[7], t.x[3], t.x[1])) =
      some (0x40404040, 0x37373737, 0x5f5f5f5f, 0x4c4c4c4c, 0x01010101) := by decide

theorem test_ccQr_alias_is_rejected :
    (nextOf (exec (.ccQr 1 1 2 3) State.reset)).map (fun t => (statusWord t, t.cbusy)) = some (0x00000300, false) := by decide

theorem test_ccInit : (nextOf (exec .ccInit (ceTurn blockInputs))).map (fun t => (t.x, t.saved)) =
    some (initRow, initRow) := by decide

theorem test_ccDround : (nextOf (exec .ccDround (ceTurn { State.reset with x := initRow }))).map (fun t => t.x) =
    some #v[0xcd52e917, 0x85ab03b4, 0xb3457395, 0xf96de7dd, 0xc4b7cd22, 0x5c2e187a, 0xc95eb461, 0x316c801a,
      0x7bf7d740, 0x7eddd644, 0xf1a1bdf5, 0x761246ca, 0x6b0d58a3, 0x6798471a, 0xd737f167, 0xf173888d] := by
  decide +kernel

theorem test_ccRounds : (nextOf (exec .ccRounds (ceTurn { State.reset with x := initRow }))).map (fun t => t.x) =
    some roundsRow := by decide +kernel

theorem test_ccFeedfwd :
    (nextOf (exec .ccFeedfwd (ceTurn { State.reset with x := roundsRow, saved := initRow }))).map (fun t => t.x) =
      some blockRow := by decide +kernel

/-- X[12] wraps to 0 and carries nothing into X[13]. -/
theorem test_ccFeedfwd_wraps :
    (nextOf (exec .ccFeedfwd (ceTurn { State.reset with
      x := (Vector.replicate 16 0).set 12 0x80000000, saved := (Vector.replicate 16 0).set 12 0x80000000 }))).map
      (fun t => (t.x[12], t.x[13])) = some (0, 0) := by decide +kernel

theorem test_ccBlock : (nextOf (exec .ccBlock (ceTurn blockInputs))).map (fun t => (t.x, t.saved)) =
    some (blockRow, initRow) := by decide +kernel

theorem test_ccBlock_largest_counter :
    (nextOf (exec .ccBlock (ceTurn { State.reset with cctr := 0xffffffff }))).map (fun t => t.x) =
      some #v[0x09cde4ac, 0x91d194e2, 0x05d24a2d, 0xd9956fd0, 0xcfbff2c2, 0x53873e45, 0x5b7628f1, 0x4d5f2162,
        0x2f4fc792, 0x646a6c62, 0x84120b0c, 0x81ec39d8, 0x816269f1, 0x683efcda, 0x70939345, 0x1d8bb523] := by
  decide +kernel

/-- The first bytes of the source's keystream string. -/
theorem test_keystream_bytes : (keystream blockRow).take 8 = [0x10, 0xf1, 0xe7, 0xe4, 0xd1, 0x3b, 0x59, 0x15] := by decide

/-! ## Poly1305 (95_test_vectors.md sections 1.3 to 1.5, 2.3 to 2.5) -/

theorem test_pKey : (nextOf (exec .pKey (peTurn { State.reset with pkey := macKey, acc := 5, tag := 9 }))).map
    (fun t => (t.regR.toNat, t.regS.toNat, t.acc.toNat, t.tag.toNat)) =
      some (0x0806d5400e52447c036d555408bed685, 0x1bf54941aff6bf4afdb20dfb8a800301, 0, 9) := by decide +kernel

theorem test_pKey_all_ones :
    (nextOf (exec .pKey (peTurn { State.reset with pkey := Vector.replicate 8 0xffffffff }))).map
      (fun t => (regValue (.pr 0) t, regValue (.pr 1) t, regValue (.pr 3) t, regValue (.ps 0) t)) =
        some (0x0fffffff, 0x0ffffffc, 0x0ffffffc, 0xffffffff) := by decide +kernel

theorem test_pBlock_source_message :
    accAfter 16 (multiplier 0 0x0806d5400e52447c036d555408bed685 #v[0x70797243, 0x72676f74, 0x69687061, 0x6f462063]) =
      some 0x2c88c77849d64ae9147ddeb88e69c83fc ∧
    accAfter 2 (multiplier 0x2d8adaf23b0337fa7cccfb4ea344b30de 0x0806d5400e52447c036d555408bed685
      #v[0x00007075, 0x68637261, 0, 0]) = some 0x28d31b7caff946c77c8844335369d03a7 := by decide +kernel

theorem test_pBlock_corners :
    accAfter 1 (multiplier 0 1 #v[0xaabbcc01, 0, 0, 0]) = some 0x101 ∧
    accAfter 16 (multiplier (2 ^ 129 - 1) 1 (Vector.replicate 4 0xffffffff)) = some 3 ∧
    accAfter 15 (multiplier 0 1 #v[0x04030201, 0x08070605, 0x0c0b0a09, 0xffffffff]) =
      some 0x1ffffff0c0b0a090807060504030201 ∧
    accAfter 16 (multiplier (2 ^ 130 - 6) 0x0ffffffc0ffffffc0ffffffc0fffffff (Vector.replicate 4 0xffffffff)) =
      some 0x207fffffe07fffffe07fffffe07fffffd := by decide +kernel

theorem test_pFinal :
    (nextOf (exec .pFinal (peTurn { State.reset with
      acc := 0x28d31b7caff946c77c8844335369d03a7#130
      regS := 0x1bf54941aff6bf4afdb20dfb8a800301#128 }))).map
      (fun t => (regValue (.tag 0) t, regValue (.tag 1) t, regValue (.tag 2) t, regValue (.tag 3) t)) =
        some (0xc11d06a8, 0xc6365130, 0xaf8b2bc2, 0xa927010c) := by decide +kernel

theorem test_pFinal_wraps :
    (nextOf (exec .pFinal (peTurn { State.reset with acc := 3, regS := 0xffffffffffffffffffffffffffffffff#128 }))).map
      (fun t => t.tag.toNat) = some 2 := by decide +kernel

/-- ACC = 2^129 - 1 reads ACC3 = ffffffff, ACC4 = 00000001. -/
theorem test_acc_words :
    (regValue (.acc 3) (multiplier (2 ^ 129 - 1) 0 (Vector.replicate 4 0)),
      regValue (.acc 4) (multiplier (2 ^ 129 - 1) 0 (Vector.replicate 4 0))) = (0xffffffff, 0x00000001) := by
  decide +kernel

/-! ## Witnesses: states and operands that meet the hypotheses of the obligations, clause by clause -/

/-- Both engines are busy, CE moves next and PE after it. -/
def bothBusy : State :=
  { blockInputs with
    cbusy := true, cpend := some .init, pbusy := true, ppend := some (.block 16), sched := [.ce, .pe] }

theorem bothBusy_inv : Inv bothBusy where
  cbusyPending := rfl
  pbusyPending := rfl
  rClamped := by decide
  accReduced := by decide
  errCode := by decide
  errmultAfterErr := by decide
  rcZero := rfl
  cpendLegal := fun c h => by
    obtain rfl : CECmd.init = c := by simpa [bothBusy] using h
    rfl
  ppendLegal := fun c h => by
    obtain rfl : PECmd.block 16 = c := by simpa [bothBusy] using h
    rfl

theorem witness_EncodeThenDecodeIsIdentity :
    (Instr.ccQr 12 13 14 15).wellFormed = true ∧ (Instr.pBlock 1).wellFormed = true ∧
    (Instr.pBlock 16).wellFormed = true ∧ Instr.ccBlock.wellFormed = true := by decide

theorem witness_DecodedWordIsItsEncoding :
    decode 0x00fedc11 = .ok (.ccQr 12 13 14 15) ∧ decode 0x00000121 = .ok (.pBlock 1) := ⟨rfl, rfl⟩

/-- One word for each premise of `DecodeChecksInOrder`; L at 0, 1, 16, 17 and 31. -/
theorem witness_DecodeChecksInOrder :
    (0x000000ff#32).toNat % 2 ^ 8 ∉ [0x01, 0x02, 0x10, 0x11, 0x12, 0x13, 0x14, 0x15, 0x20, 0x21, 0x22] ∧
    ((0x01000011#32).toNat % 2 ^ 8 = 0x11 ∧ (0x01000011#32).toNat / 2 ^ 24 ≠ 0) ∧
    ((0x00321111#32).toNat / 2 ^ 24 = 0 ∧ (0x00321111#32).toNat / 2 ^ 8 % 16 = (1 : Fin 16) ∧ ¬ SlotsDistinct 1 1 2 3) ∧
    ((0x00fedc11#32).toNat / 2 ^ 24 = 0 ∧ (0x00fedc11#32).toNat / 2 ^ 20 % 16 = (15 : Fin 16) ∧ SlotsDistinct 12 13 14 15) ∧
    ((0x00002021#32).toNat % 2 ^ 8 = 0x21 ∧ (0x00002021#32).toNat / 2 ^ 13 ≠ 0) ∧
    ((0x00000021#32).toNat / 2 ^ 13 = 0 ∧ (0x00000021#32).toNat / 2 ^ 8 % 32 = (0 : Fin 32)) ∧
    (0x00000121#32).toNat / 2 ^ 8 % 32 = (1 : Fin 32) ∧ (0x00001021#32).toNat / 2 ^ 8 % 32 = (16 : Fin 32) ∧
    (0x00001121#32).toNat / 2 ^ 8 % 32 = (17 : Fin 32) ∧
    ((0x00001f21#32).toNat / 2 ^ 13 = 0 ∧ (0x00001f21#32).toNat / 2 ^ 8 % 32 = (31 : Fin 32)) ∧
    ((0x00000110#32).toNat % 2 ^ 8 = 0x10 ∧ (0x00000110#32).toNat / 2 ^ 8 ≠ 0) ∧
    ((0x00000010#32).toNat % 2 ^ 8 = 0x10 ∧ (0x00000010#32).toNat / 2 ^ 8 = 0) := by decide

theorem witness_DecodedWordSelectsItsRowAlone :
    decode 0x00765411 = .ok (.ccQr 4 5 6 7) ∧
    0x00765411#32 &&& tableMask (.ccQr 4 5 6 7) = tableMatch (.ccQr 4 5 6 7) ∧
    0x00765411#32 &&& tableMask (.ccQr 0 1 2 3) = tableMatch (.ccQr 0 1 2 3) := ⟨rfl, by decide, by decide⟩

theorem witness_StepRunsTheCommandTheHostWrites :
    mover (hostTurn [issueOp 0x00000010] State.reset) = .host 0 ∧
    nextOp 0 (hostTurn [issueOp 0x00000010] State.reset) = some (.access (.write 0 4 0x00000010)) ∧
    decode 0x00000010 = .ok .ccInit ∧
    nextOp 0 (hostTurn [issueOp 0x000000ff] State.reset) = some (.access (.write 0 4 0x000000ff)) ∧
    decode 0x000000ff = .error .illegalOp := ⟨rfl, rfl, rfl, rfl, rfl⟩

theorem witness_StepRunsThePendingCommand :
    (mover (ceBusy .block) = .ce ∧ (ceBusy .block).cbusy = true ∧ (ceBusy .block).cpend = some .block) ∧
    mover (peBusy .key) = .pe ∧ (peBusy .key).pbusy = true ∧ (peBusy .key).ppend = some .key := by decide

theorem witness_FetchWordIsTheNextCommand :
    0x00001021 < 2 ^ 32 ∧ decodeTableWord 32 0x00001021 = some (.pBlock 16) := by decide

theorem witness_IssueDecodesThenChecksBusyThenAccepts :
    mover { ceBusy .block with sched := [.host 0] } = .host 0 ∧ mover { peBusy .key with sched := [.host 0] } = .host 0 ∧
    mover { State.reset with sched := [.host 0] } = .host 0 ∧ State.reset.cbusy = false ∧ State.reset.pbusy = false ∧
    decode 0x00001121 = .error .badLen ∧ decode 0x00000013 = .ok (ceInstr .rounds) ∧
    decode 0x00001021 = .ok (peInstr (.block 16)) ∧ decode 0x00000001 = .ok .clrerr ∧ decode 0x00000002 = .ok .srst :=
  ⟨rfl, rfl, rfl, rfl, rfl, rfl, rfl, rfl, rfl, rfl⟩

theorem witness_IdleEngineAcceptsEveryLegalCommand :
    (ceInstr (.qr 15 0 7 3)).wellFormed = true ∧ (peInstr (.block 1)).wellFormed = true ∧
    mover State.reset ≠ .ce ∧ mover State.reset ≠ .pe ∧ State.reset.cbusy = false ∧ State.reset.pbusy = false := by decide

theorem witness_BusyEngineRejectsTheCommand :
    ((ceInstr .dround).wellFormed = true ∧ mover { ceBusy .init with sched := [.host 0] } ≠ .ce ∧ (ceBusy .init).cbusy = true) ∧
    (peInstr .final).wellFormed = true ∧ mover { peBusy .key with sched := [.host 0] } ≠ .pe ∧ (peBusy .key).pbusy = true := by
  decide

theorem witness_IllegalOperandsAreRejected :
    ¬ SlotsDistinct 15 15 0 0 ∧ ¬ LengthLegal 0 ∧ ¬ LengthLegal 17 ∧ ¬ LengthLegal 31 := by decide

theorem witness_AcceptedCommandIsRunByItsEngineNext :
    nextOp 0 (hostTurn [issueOp 0x00000015] { State.reset with sched := [.host 0, .ce] }) =
      some (.access (.write 0 4 0x00000015)) ∧ decode 0x00000015 = .ok (ceInstr .block) ∧
    nextOp 0 (hostTurn [issueOp 0x00000022] { State.reset with sched := [.host 0, .pe] }) =
      some (.access (.write 0 4 0x00000022)) ∧ decode 0x00000022 = .ok (peInstr .final) ∧
    State.reset.cbusy = false ∧ State.reset.pbusy = false := ⟨rfl, rfl, rfl, rfl, rfl, rfl⟩

/-- The intermediate values of 95_test_vectors.md section 2.1. -/
theorem witness_QuarterRoundRunsItsFourSteps :
    (0x12131415 : Word) = 0x11111111 + 0x01020304 ∧
    (0x51721330 : Word) = (0x01234567 ^^^ 0x12131415 : Word).rotateLeft 16 ∧
    (0xecff8273 : Word) = 0x9b8d6f43 + 0x51721330 ∧
    (0xd8177edf : Word) = (0x01020304 ^^^ 0xecff8273 : Word).rotateLeft 12 ∧
    (0xea2a92f4 : Word) = 0x12131415 + 0xd8177edf ∧
    (0x5881c4bb : Word) = (0x51721330 ^^^ 0xea2a92f4 : Word).rotateLeft 8 ∧
    (0x4581472e : Word) = 0xecff8273 + 0x5881c4bb ∧
    (0xcb1cf8ce : Word) = (0xd8177edf ^^^ 0x4581472e : Word).rotateLeft 7 := by decide

theorem witness_CcQrMixesItsFourSlots :
    SlotsDistinct 15 0 7 3 ∧ mover (ceBusy (.qr 15 0 7 3)) = .ce ∧
    ((1 : Fin 16) ≠ 15 ∧ (1 : Fin 16) ≠ 0 ∧ (1 : Fin 16) ≠ 7 ∧ (1 : Fin 16) ≠ 3) := by decide

theorem witness_CcInitBuildsTheInitialState : mover (ceBusy .init) = .ce := by decide

theorem witness_CcDroundRunsColumnsThenDiagonals : mover (ceBusy .dround) = .ce := by decide

theorem witness_CcRoundsRunsTenDoubleRounds : mover (ceBusy .rounds) = .ce := by decide

theorem witness_CcFeedfwdAddsSavedWordByWord : mover (ceBusy .feedfwd) = .ce := by decide

theorem witness_CcBlockComputesTheKeystreamBlock : mover (ceBusy .block) = .ce := by decide

theorem witness_BlockEqualsInitRoundsFeedforward : (ceTurn blockInputs).sched = .ce :: [] := rfl

theorem witness_GroupOrderInsideARoundIsIrrelevant :
    ([⟨3, 7, 11, 15⟩, ⟨0, 4, 8, 12⟩, ⟨1, 5, 9, 13⟩, ⟨2, 6, 10, 14⟩] : List Group).Perm
      [⟨0, 4, 8, 12⟩, ⟨1, 5, 9, 13⟩, ⟨2, 6, 10, 14⟩, ⟨3, 7, 11, 15⟩] ∧
    ([⟨3, 4, 9, 14⟩, ⟨0, 5, 10, 15⟩, ⟨1, 6, 11, 12⟩, ⟨2, 7, 8, 13⟩] : List Group).Perm
      [⟨0, 5, 10, 15⟩, ⟨1, 6, 11, 12⟩, ⟨2, 7, 8, 13⟩, ⟨3, 4, 9, 14⟩] := by decide

theorem witness_PKeyClampsRAndLoadsS : mover (peBusy .key) = .pe := by decide

theorem witness_PBlockFoldsOneChunk : LengthLegal 1 ∧ LengthLegal 16 ∧ mover (peBusy (.block 16)) = .pe := by decide

theorem witness_PFinalComputesTheTag : mover (peBusy .final) = .pe := by decide

/-- The chunks of the source's message (95_test_vectors.md section 1.3). -/
theorem witness_MacIsTheFoldOfItsChunks :
    ({ State.reset with pkey := macKey, sched := [.pe] } : State).sched = .pe :: [] ∧
    ∀ c ∈ ([(#v[0x70797243, 0x72676f74, 0x69687061, 0x6f462063], 16), (#v[0x206d7572, 0x65736552, 0x68637261, 0x6f724720], 16),
      (#v[0x00007075, 0, 0, 0], 2)] : List (Vector Word 4 × Fin 32)), LengthLegal c.2 := by decide

theorem witness_EmptyMessageTagIsS : ({ State.reset with pkey := macKey, sched := [.pe] } : State).sched = .pe :: [] := rfl

theorem witness_ChunkValueIsBytesBelowTheMarker : LengthLegal 1 ∧ LengthLegal 16 := by decide

/-- MSG0 = aabbcc01 and MSG0 = 00000001 agree on the one byte of a chunk of length 1. -/
theorem witness_BytesBeyondTheLengthAreIgnored :
    LengthLegal 1 ∧ mover (peBusy (.block 1)) = .pe ∧
    (∀ j, j < (1 : Fin 32).val →
      chunkByte #v[0xaabbcc01, 0, 0, 0] j = chunkByte (multiplier 0 1 #v[0x00000001, 0, 0, 0]).msg j) := by decide

/-- The largest ACC and R. -/
theorem witness_ProductFitsTheDatapath :
    LengthLegal 16 ∧
    (multiplier (2 ^ 130 - 6) 0x0ffffffc0ffffffc0ffffffc0fffffff (Vector.replicate 4 0xffffffff)).acc.toNat < polyP ∧
    (multiplier (2 ^ 130 - 6) 0x0ffffffc0ffffffc0ffffffc0fffffff (Vector.replicate 4 0xffffffff)).regR &&& ~~~clampMask = 0 := by
  decide +kernel

/-- The first and the last register of every row of the map, at the offsets 20_memory.md R51 gives them. -/
theorem witness_RegisterMapRoundTrips :
    [0x000, 0x004, 0x040, 0x05C, 0x060, 0x064, 0x06C, 0x080, 0x0BC, 0x0C0, 0x0FC, 0x100, 0x11C, 0x120, 0x12C, 0x130, 0x13C,
      0x140, 0x14C, 0x150, 0x160, 0x170, 0x17C].map regAt =
    [.cmd, .status, .ckey 0, .ckey 7, .cctr, .cnonce 0, .cnonce 2, .state 0, .state 15, .saved 0, .saved 15, .pkey 0,
      .pkey 7, .msg 0, .msg 3, .pr 0, .pr 3, .ps 0, .ps 3, .acc 0, .acc 4, .tag 0, .tag 3].map some := by decide

/-- The ends of the reserved ranges, and their neighbours that are registers. -/
theorem witness_ReservedOffsetsReadZeroAndIgnoreWrites :
    [0x008, 0x03C, 0x070, 0x07C, 0x164, 0x16C, 0x180, 0x1FC].all (fun off => off % 4 == 0 && decide (off < 0x200) && (regAt off).isNone) = true ∧
    [0x004, 0x040, 0x06C, 0x080, 0x160, 0x170, 0x17C].all (fun off => (regAt off).isSome) = true := by decide

/-- Offsets at which no register stands: the first reserved one and the last. -/
theorem witness_ReadReturnsTheRegisterOrADraw :
    (∀ r : Reg, regOffset r ≠ 0x008) ∧ ∀ r : Reg, regOffset r ≠ 0x1FC := by
  constructor <;> intro r <;> cases r <;> simp only [regOffset] <;> omega

/-- The first and the last admitted offset; a read and a write. -/
theorem witness_StepPerformsTheAdmittedAccess :
    mover (hostTurn [.access (.read 0x000 4)] State.reset) = .host 0 ∧ admitted 0x000 4 = true ∧
    nextOp 0 (hostTurn [.access (.read 0x000 4)] State.reset) = some (.access (.read 0x000 4)) ∧
    mover (hostTurn [.access (.write 0x1FC 4 7)] State.reset) = .host 0 ∧ admitted 0x1FC 4 = true ∧
    nextOp 0 (hostTurn [.access (.write 0x1FC 4 7)] State.reset) = some (.access (.write 0x1FC 4 7)) := by decide

theorem witness_WriteStoresRejectsOrIsIgnored : ∀ r : Reg, regOffset r ≠ 0x180 := by
  intro r
  cases r <;> simp only [regOffset] <;> omega

theorem witness_WrittenWordReadsBackAndNothingElseChanges :
    State.reset.cbusy = false ∧ State.reset.pbusy = false ∧ (∃ i, Reg.ckey 7 = .ckey i) ∧ Reg.cctr = .cctr ∧
    (∃ i, Reg.cnonce 2 = .cnonce i) ∧ (∃ i, Reg.state 15 = .state i) ∧ (∃ i, Reg.pkey 7 = .pkey i) ∧ (∃ i, Reg.msg 3 = .msg i) := by
  decide

/-- A byte access, a misaligned one, one just above the window. -/
theorem witness_BusErrorTouchesOnlyTheHost :
    mover (hostTurn [.access (.read 0x040 1)] State.reset) = .host 0 ∧
    nextOp 0 (hostTurn [.access (.read 0x040 1)] State.reset) = some (.access (.read 0x040 1)) ∧
    nextOp 0 (hostTurn [.access (.write 0x002 4 7)] State.reset) = some (.access (.write 0x002 4 7)) ∧
    nextOp 0 (hostTurn [.access (.read 0x200 4)] State.reset) = some (.access (.read 0x200 4)) ∧
    ¬ (1 = 4 ∧ 0x040 % 4 = 0 ∧ 0x040 < 0x200) ∧ ¬ (4 = 4 ∧ 0x002 % 4 = 0 ∧ 0x002 < 0x200) ∧
    ¬ (4 = 4 ∧ 0x200 % 4 = 0 ∧ 0x200 < 0x200) := by decide

theorem witness_HostFaultIsNeverCleared :
    (∃ t, step { bothBusy with hosts := [{ HostState.idle with fault := true }] } = .next t) ∧
    ({ bothBusy with hosts := [{ HostState.idle with fault := true }] } : State).hosts[0]? =
      some { HostState.idle with fault := true } := ⟨⟨_, rfl⟩, rfl⟩

/-- The bit read is 1 in the first state and 0 in the second. -/
theorem witness_BsetJumpsOnTheBitItReads :
    mover { hostTurn [.bset .status 0 0] (ceBusy .init) with sched := [.host 0] } = .host 0 ∧
    (hostTurn [.bset .status 0 0] (ceBusy .init)).hosts[0]? = some (hostOf (emit [.bset .status 0 0])) ∧
    (hostOf (emit [.bset .status 0 0])).program[0]? = some (.bset .status 0 0) ∧
    readsDraw .status (ceBusy .init) = false ∧ readsDraw (.state 0) (ceBusy .init) = true ∧ (regValue .status (ceBusy .init)).getLsbD 0 = true ∧
    (regValue .status State.reset).getLsbD 0 = false := by decide

theorem witness_RejectionRecordsTheFirstCode : State.reset.err = 0 ∧ twoErrors.err ≠ 0 := by decide

/-- ERR = 3 stays through a second rejection, and CLRERR clears it. -/
theorem witness_FirstErrorIsNeverOverwritten :
    twoErrors.err ≠ 0 ∧ (∃ t, step (hostTurn [issueOp 0x000000ff] twoErrors) = .next t) ∧
    ∃ t, step (hostTurn [issueOp 0x00000001] twoErrors) = .next t := ⟨by decide, ⟨_, rfl⟩, ⟨_, rfl⟩⟩

theorem witness_CompletionStaysInItsDomain :
    Inv bothBusy ∧ mover bothBusy = .ce ∧ (∃ t, step bothBusy = .next t) ∧ mover { bothBusy with sched := [.pe] } = .pe ∧
    ∃ t, step { bothBusy with sched := [.pe] } = .next t := ⟨bothBusy_inv, rfl, ⟨_, rfl⟩, rfl, ⟨_, rfl⟩⟩

theorem witness_CompletionsOfTheEnginesCommute : Inv bothBusy := bothBusy_inv

/-- CE changes SAVED in its move, and a HOST changes X[15] by its write of STATE15. -/
theorem witness_OutputsChangeOnlyByTheirEngineOrReset :
    (∃ t, step bothBusy = .next t ∧ t.saved ≠ bothBusy.saved) ∧
    ∃ t, step (hostTurn [wrOp (.state 15) 7] blockInputs) = .next t ∧ t.x = blockInputs.x.set 15 7 ∧ t.x ≠ blockInputs.x :=
  ⟨⟨_, rfl, by decide⟩, ⟨_, rfl, rfl, by decide⟩⟩

/-- A step of PE, a write to STATE3 while CE is busy, and a reset. -/
theorem witness_InputsOfABusyEngineAreStable :
    bothBusy.cbusy = true ∧ bothBusy.pbusy = true ∧ mover { bothBusy with sched := [.pe] } ≠ .ce ∧
    (∃ t, step { bothBusy with sched := [.pe] } = .next t) ∧
    (∃ t, step (hostTurn [wrOp (.state 3) 7] { bothBusy with sched := [.host 0] }) = .next t) ∧
    ∃ t, step { bothBusy with sched := [.resetInput] } = .next t ∧ t.ckey ≠ bothBusy.ckey :=
  ⟨rfl, rfl, by decide, ⟨_, rfl⟩, ⟨_, rfl⟩, ⟨_, rfl, by decide⟩⟩

theorem witness_AcceptedCommandIsNeverCancelled :
    bothBusy.cbusy = true ∧ bothBusy.cpend = some .init ∧ bothBusy.pbusy = true ∧ bothBusy.ppend = some (.block 16) ∧
    ∃ t, step bothBusy = .next t := ⟨rfl, rfl, rfl, rfl, ⟨_, rfl⟩⟩

theorem witness_EveryStepKeepsTheInvariants : Inv bothBusy ∧ ∃ t, step bothBusy = .next t := ⟨bothBusy_inv, ⟨_, rfl⟩⟩

theorem witness_EnginesBecomeIdle : Inv bothBusy := bothBusy_inv

end Sys2Proof.Tests
end

section
/-!
PROOFS. The completion steps and their domains (00_scope.md R3, 10_state.md R33, 20_memory.md R61): the rules of CE write X,
SAVED and RC only, those of PE write R, S, ACC and TAG only, and an engine's completion step changes nothing else but its own
busy bit, its slot and the schedule.
-/

namespace Sys2Proof.Machine

/-! ### What the rules of an engine leave unchanged -/

/-- The rules of CE write X, SAVED and RC only. -/
theorem ceEffect_frame (c : CECmd) (s : State) :
    ceEffect c s = { s with x := (ceEffect c s).x, saved := (ceEffect c s).saved, rc := (ceEffect c s).rc } := by
  cases c with
  | init => simp only [ceEffect, effectCcInit]
  | qr a b c d => simp only [ceEffect, effectCcQr]
  | dround => simp only [ceEffect, effectCcDround]
  | rounds => simp only [ceEffect, effectCcRounds_eq]
  | feedfwd => simp only [ceEffect, effectCcFeedfwd]
  | block => simp only [ceEffect, effectCcBlock_eq]

/-- The rules of PE write R, S, ACC and TAG only. -/
theorem peEffect_frame (c : PECmd) (s : State) :
    peEffect c s = { s with
      regR := (peEffect c s).regR, regS := (peEffect c s).regS, acc := (peEffect c s).acc, tag := (peEffect c s).tag } := by
  cases c <;> rfl

/-! ### The slot of an engine, from its busy bit -/

theorem Inv.cpend_eq_none {s : State} (inv : Inv s) (idle : s.cbusy = false) : s.cpend = none := by
  simpa [idle] using inv.cbusyPending

theorem Inv.ppend_eq_none {s : State} (inv : Inv s) (idle : s.pbusy = false) : s.ppend = none := by
  simpa [idle] using inv.pbusyPending

theorem Inv.exists_cpend {s : State} (inv : Inv s) (busy : s.cbusy = true) :
    ∃ c, s.cpend = some c ∧ (ceInstr c).wellFormed = true := by
  obtain ⟨c, hc⟩ := Option.isSome_iff_exists.mp (inv.cbusyPending.symm.trans busy)
  exact ⟨c, hc, inv.cpendLegal c hc⟩

theorem Inv.exists_ppend {s : State} (inv : Inv s) (busy : s.pbusy = true) :
    ∃ c, s.ppend = some c ∧ (peInstr c).wellFormed = true := by
  obtain ⟨c, hc⟩ := Option.isSome_iff_exists.mp (inv.pbusyPending.symm.trans busy)
  exact ⟨c, hc, inv.ppendLegal c hc⟩

/-! ### The completion steps -/

/-- CE's step writes X and SAVED, empties CE's slot and uses up its turn. RC, which the sequencer ran, is 0 again: `Inv` says
that it was 0 before. -/
theorem step_ce_frame {s t : State} (inv : Inv s) (turn : mover s = .ce) (h : step s = .next t) :
    t = { s with x := t.x, saved := t.saved, cpend := none, cbusy := false, sched := s.sched.tail } := by
  cases hb : s.cbusy with
  | false =>
    rw [step_ce_idle turn hb] at h
    cases h
    simp only [← hb, ← inv.cpend_eq_none hb]
  | true =>
    obtain ⟨c, hc, wf⟩ := inv.exists_cpend hb
    rw [step_ce_busy turn hb hc wf, ceEffect_frame] at h
    cases h
    simp only [retireCE, inv.rcZero]

/-- PE's step writes R, S, ACC and TAG, empties PE's slot and uses up its turn. -/
theorem step_pe_frame {s t : State} (inv : Inv s) (turn : mover s = .pe) (h : step s = .next t) :
    t = { s with
      regR := t.regR, regS := t.regS, acc := t.acc, tag := t.tag, ppend := none, pbusy := false, sched := s.sched.tail } := by
  cases hb : s.pbusy with
  | false =>
    rw [step_pe_idle turn hb] at h
    cases h
    simp only [← hb, ← inv.ppend_eq_none hb]
  | true =>
    obtain ⟨c, hc, wf⟩ := inv.exists_ppend hb
    rw [step_pe_busy turn hb hc wf, peEffect_frame] at h
    cases h
    rfl

/-- Settles O53: both clauses are the frames of the two engines' steps. -/
theorem completionStaysInItsDomain : Obligations.CompletionStaysInItsDomain :=
  fun _ _ inv h => ⟨fun turn => step_ce_frame inv turn h, fun turn => step_pe_frame inv turn h⟩

end Sys2Proof.Machine
end

section
/-!
PROOFS. The state and its invariants (10_state.md): the wide registers and STATUS as numbers, the reset state, which move
may change an output register, and the invariants of R36, kept by every move.
-/

namespace Sys2Proof.Machine

/-! ### The wide registers and STATUS as numbers -/

/-- A 128-bit register is the little-endian number of its four words. -/
theorem lew_words_toNat (v : BitVec 128) :
    lew [wordAt v 0, wordAt v 1, wordAt v 2, wordAt v 3] = v.toNat := by
  have := v.isLt
  simp only [lew, wordAt, BitVec.extractLsb'_toNat, Nat.shiftRight_eq_div_pow]
  omega

/-- The words of a longer list stand above those of the list it continues. -/
theorem lew_append (ws vs : List Word) : lew (ws ++ vs) = lew ws + 2 ^ (32 * ws.length) * lew vs := by
  induction ws with
  | nil => simp [lew]
  | cons w ws ih =>
    simp only [List.cons_append, List.length_cons, lew, ih]
    ring

/-- ACC4 holds the two bits of ACC above the 128 that ACC0..3 hold. -/
theorem regValue_acc_four_toNat (s : State) : (regValue (.acc 4) s).toNat = s.acc.toNat / 2 ^ 128 := by
  have := s.acc.isLt
  have top : regValue (.acc 4) s = (s.acc.extractLsb' 128 2).setWidth 32 := rfl
  rw [top, BitVec.toNat_setWidth, BitVec.extractLsb'_toNat, Nat.shiftRight_eq_div_pow]
  omega

/-- ACC is the number of ACC0..3, the low 128 bits, with ACC4 above them. -/
theorem lew_acc_words (s : State) :
    lew [regValue (.acc 0) s, regValue (.acc 1) s, regValue (.acc 2) s, regValue (.acc 3) s, regValue (.acc 4) s] =
      s.acc.toNat := by
  have low : lew [regValue (.acc 0) s, regValue (.acc 1) s, regValue (.acc 2) s, regValue (.acc 3) s] =
      (s.acc.setWidth 128).toNat := lew_words_toNat _
  calc
    _ = lew [regValue (.acc 0) s, regValue (.acc 1) s, regValue (.acc 2) s, regValue (.acc 3) s] +
          2 ^ 128 * lew [regValue (.acc 4) s] := lew_append [_, _, _, _] [_]
    _ = s.acc.toNat % 2 ^ 128 + 2 ^ 128 * (s.acc.toNat / 2 ^ 128) := by
      rw [low, BitVec.toNat_setWidth, lew, lew, Nat.mul_zero, Nat.add_zero, regValue_acc_four_toNat]
    _ = s.acc.toNat := Nat.mod_add_div _ _

/-- Settles O38: each register is the number of its words, and ACC has 130 bits. -/
theorem wideRegistersAreTheirWindowWords : Obligations.WideRegistersAreTheirWindowWords := by
  intro s
  refine ⟨(lew_words_toNat s.regR).symm, (lew_words_toNat s.regS).symm, (lew_words_toNat s.tag).symm,
    (lew_acc_words s).symm, ?_⟩
  have := s.acc.isLt
  rw [regValue_acc_four_toNat]
  omega

theorem append_toNat {m n : Nat} (u : BitVec m) (v : BitVec n) : (u ++ v).toNat = 2 ^ n * u.toNat + v.toNat := by
  rw [BitVec.toNat_append, ← Nat.shiftLeft_add_eq_or_of_lt v.isLt, Nat.shiftLeft_eq, Nat.mul_comm]

/-- STATUS is the sum of its fields at their bits. -/
theorem statusWord_toNat (s : State) :
    (statusWord s).toNat = s.cbusy.toNat + 2 ^ 1 * s.pbusy.toNat + 2 ^ 8 * s.err.toNat + 2 ^ 12 * s.errmult.toNat := by
  simp only [statusWord, append_toNat, BitVec.toNat_ofBool, BitVec.toNat_ofNat]
  omega

theorem memWrite_status (v : Word) (s : State) : memWrite 0x004 v s = .next s := rfl

/-- Settles O47: STATUS as a number, and the write at its offset, which stores nothing. -/
theorem statusIsTheViewOfItsFields : Obligations.StatusIsTheViewOfItsFields :=
  fun s v => ⟨statusWord_toNat s, memWrite_status v s⟩

/-! ### The reset state -/

theorem wordAt_zero (n i : Nat) : wordAt (0 : BitVec n) i = 0 :=
  BitVec.extractLsb'_zero

theorem regValue_reset (r : Reg) : regValue r State.reset = 0 := by
  cases r with
  | acc i => revert i; decide
  | pr i => exact wordAt_zero _ i
  | ps i => exact wordAt_zero _ i
  | tag i => exact wordAt_zero _ i
  | cmd => rfl
  | status => rfl
  | cctr => rfl
  | ckey i => exact Vector.getElem_replicate _
  | cnonce i => exact Vector.getElem_replicate _
  | state i => exact Vector.getElem_replicate _
  | saved i => exact Vector.getElem_replicate _
  | pkey i => exact Vector.getElem_replicate _
  | msg i => exact Vector.getElem_replicate _

/-- No read draws while both engines are idle. -/
theorem readsDraw_of_idle {s : State} (ce : s.cbusy = false) (pe : s.pbusy = false) (r : Reg) : readsDraw r s = false := by
  cases r <;> simp only [readsDraw, ce, pe]

/-- Settles O17: every register reads 0, and no read draws because both engines are idle. -/
theorem resetStateReadsZeroAndIsIdle : Obligations.ResetStateReadsZeroAndIsIdle :=
  ⟨fun r => ⟨regValue_reset r, readsDraw_of_idle rfl rfl r⟩, rfl, rfl, rfl⟩

/-! ### The register at an offset -/

theorem slotAt_eq_some {base n off : Nat} {i : Fin n} (h : slotAt base n off = some i) : off = base + 4 * i := by
  unfold slotAt at h
  split at h
  · next hc =>
    obtain rfl : _ = i := by simpa using h
    simp only
    omega
  · cases h

/-- A row of registers that stand every four bytes from `base` names a register only at its own offset. -/
theorem offset_of_row {base n off : Nat} {row : Fin n → Reg} (stands : ∀ i, regOffset (row i) = base + 4 * i) {r : Reg}
    (h : (slotAt base n off).map row = some r) : off = regOffset r := by
  obtain ⟨i, hi, rfl⟩ := Option.map_eq_some_iff.mp h
  rw [stands, slotAt_eq_some hi]

/-- The map of the window names a register only at its own offset (20_memory.md R51), row by row. -/
theorem offset_of_regAt {off : Nat} {r : Reg} (h : regAt off = some r) : off = regOffset r := by
  simp only [regAt, Option.orElse_eq_orElse, Option.orElse_eq_or, Option.or_eq_some_iff] at h
  obtain h | ⟨-, h | ⟨-, h | ⟨-, h | ⟨-, h | ⟨-, h | ⟨-, h | ⟨-, h | ⟨-, h | ⟨-, h | ⟨-, h | ⟨-, h | ⟨-, h⟩⟩⟩⟩⟩⟩⟩⟩⟩⟩⟩⟩ := h
  all_goals exact offset_of_row (fun i => by simp [regOffset]) h

/-! ### Which move changes an output register -/

/-- Settles O55, by the cases of what a move can do to the core. -/
theorem outputsChangeOnlyByTheirEngineOrReset : Obligations.OutputsChangeOnlyByTheirEngineOrReset := by
  intro s t h
  obtain ⟨u, hosts, n, move, rfl, -⟩ := step_cases h
  cases move with
  | reset => exact .inl rfl
  | ceDone c _ _ _ turn =>
    rw [ceEffect_frame]
    exact .inr ⟨.inr turn, .inr (.inl turn), .inl ⟨rfl, rfl, rfl, rfl⟩⟩
  | peDone c _ _ _ turn =>
    rw [peEffect_frame]
    exact .inr ⟨.inl rfl, .inl rfl, .inr turn⟩
  | stateWord idle k off host i v op at_off =>
    obtain rfl := offset_of_regAt at_off
    exact .inr ⟨.inl rfl, .inr (.inr ⟨k, i, v, host, idle, op, rfl⟩), .inl ⟨rfl, rfl, rfl, rfl⟩⟩
  | _ => exact .inr ⟨.inl rfl, .inl rfl, .inl ⟨rfl, rfl, rfl, rfl⟩⟩

/-! ### The invariants -/

theorem polyP_pos : 0 < polyP := by decide

theorem mulReduce_lt (t : Nat) (r : BitVec 128) : mulReduce t r < polyP :=
  Nat.mod_lt _ polyP_pos

/-- The invariants are of the core: they do not speak of the HOSTs, the schedule and the count of draws. -/
theorem Inv.with_hosts_sched_draws {s : State} (inv : Inv s) (hosts : List HostState) (sched : List Agent) (draws : Nat) :
    Inv { s with hosts := hosts, sched := sched, draws := draws } :=
  { inv with }

theorem errAfter_le {s : State} (h : s.err.toNat ≤ 6) (e : ErrCode) : (errAfter e s).toNat ≤ 6 := by
  by_cases clear : s.err = 0
  · rw [errAfter_of_clear clear]
    cases e <;> decide
  · rwa [errAfter_of_set clear]

theorem Inv.after_reject {s : State} (inv : Inv s) (e : ErrCode) : Inv (reject e s) :=
  { inv with
    errCode := errAfter_le inv.errCode e
    errmultAfterErr := fun _ => errAfter_ne_zero e s }

theorem inv_coreReset (s : State) : Inv (coreReset s) where
  cbusyPending := rfl
  pbusyPending := rfl
  rClamped := BitVec.zero_and
  accReduced := polyP_pos
  errCode := Nat.zero_le 6
  errmultAfterErr := nofun
  rcZero := rfl
  cpendLegal := nofun
  ppendLegal := nofun

theorem Inv.after_acceptCE {s : State} (inv : Inv s) {c : CECmd} (wf : (ceInstr c).wellFormed = true) : Inv (acceptCE c s) :=
  { inv with
    cbusyPending := rfl
    cpendLegal := by rintro _ ⟨⟩; exact wf }

theorem Inv.after_acceptPE {s : State} (inv : Inv s) {c : PECmd} (wf : (peInstr c).wellFormed = true) : Inv (acceptPE c s) :=
  { inv with
    pbusyPending := rfl
    ppendLegal := by rintro _ ⟨⟩; exact wf }

theorem Inv.after_ceDone {s : State} (inv : Inv s) (c : CECmd) : Inv (retireCE (ceEffect c s)) := by
  rw [ceEffect_frame]
  exact { inv with
    cbusyPending := rfl
    rcZero := rfl
    cpendLegal := nofun }

theorem clamp_clamped (v : BitVec 128) : clamp v &&& ~~~clampMask = 0 := by
  rw [clamp, BitVec.and_assoc, BitVec.and_not_self]
  exact BitVec.and_zero

/-- R stays clamped: P_KEY loads a clamped value, the other rules of PE leave R. -/
theorem peEffect_rClamped {s : State} (h : s.regR &&& ~~~clampMask = 0) (c : PECmd) :
    (peEffect c s).regR &&& ~~~clampMask = 0 := by
  cases c with
  | key => exact clamp_clamped _
  | block len => exact h
  | final => exact h

/-- ACC stays below P: P_KEY zeroes it, P_BLOCK leaves a remainder mod P, P_FINAL leaves ACC. -/
theorem peEffect_accReduced {s : State} (h : s.acc.toNat < polyP) (c : PECmd) : (peEffect c s).acc.toNat < polyP := by
  cases c with
  | key => exact polyP_pos
  | block len =>
    simp only [peEffect, effectPBlock_acc, BitVec.toNat_ofNat]
    exact (Nat.mod_le _ _).trans_lt (mulReduce_lt _ _)
  | final => exact h

theorem Inv.after_peDone {s : State} (inv : Inv s) (c : PECmd) : Inv (retirePE (peEffect c s)) := by
  have clamped := peEffect_rClamped inv.rClamped c
  have reduced := peEffect_accReduced inv.accReduced c
  rw [peEffect_frame]
  exact { inv with
    pbusyPending := rfl
    rClamped := clamped
    accReduced := reduced
    ppendLegal := nofun }

/-- Whatever a move does to the core keeps the invariants. -/
theorem CoreMove.keeps_inv {s u : State} (move : CoreMove s u) (inv : Inv s) : Inv u := by
  cases move with
  | unchanged => exact inv
  | rejected e => exact inv.after_reject e
  | cleared => exact { inv with errCode := Nat.zero_le 6, errmultAfterErr := nofun }
  | reset => exact inv_coreReset s
  | ceAccepted c wf => exact inv.after_acceptCE wf
  | peAccepted c wf => exact inv.after_acceptPE wf
  | ceDone c => exact inv.after_ceDone c
  | peDone c => exact inv.after_peDone c
  | ceInputs => exact { inv with }
  | stateWord => exact { inv with }
  | peInputs => exact { inv with }

/-- Settles O59: a step is a move of the core and changes to the HOSTs, the schedule and the count of draws. -/
theorem everyStepKeepsTheInvariants : Obligations.EveryStepKeepsTheInvariants := by
  intro s t inv h
  obtain ⟨u, hosts, n, move, rfl, -⟩ := step_cases h
  exact (move.keeps_inv inv).with_hosts_sched_draws hosts s.sched.tail n

end Sys2Proof.Machine
end

section
/-!
PROOFS. The register window (20_memory.md R51 to R60): the map and its inverse, what a read and a write of an admitted offset
do, row by row, and the bytes of the window.
-/

namespace Sys2Proof.Machine

/-! ### The map and its inverse -/

theorem regAt_regOffset (r : Reg) : regAt (regOffset r) = some r := by
  cases r with
  | cmd | status | cctr => rfl
  | ckey i | cnonce i | state i | saved i | pkey i | msg i | pr i | ps i | acc i | tag i => revert i; decide

theorem regAt_eq_none {off : Nat} (h : ∀ r, regOffset r ≠ off) : regAt off = none :=
  Option.eq_none_iff_forall_ne_some.mpr fun r hr => h r (offset_of_regAt hr).symm

theorem regOffset_mod (r : Reg) : regOffset r % 4 = 0 := by
  cases r <;> simp only [regOffset] <;> omega

theorem regOffset_add_lt (r : Reg) {j : Nat} (h : j < 4) : regOffset r + j < winSize := by
  cases r <;> simp only [regOffset, winSize] <;> omega

theorem admitted_regOffset (r : Reg) : admitted (regOffset r) 4 = true :=
  decide_eq_true ⟨rfl, regOffset_mod r, regOffset_add_lt r (j := 0) (by decide)⟩

/-- Settles O39: a register's own offset decodes to it, and an offset that decodes to a register is that register's. -/
theorem registerMapRoundTrips : Obligations.RegisterMapRoundTrips :=
  ⟨fun r => ⟨regAt_regOffset r, admitted_regOffset r⟩, fun _ _ h => (offset_of_regAt h).symm⟩

/-- A word offset inside a row of `n` registers is that of one of them. -/
theorem exists_slot {base n off : Nat} (aligned : off % 4 = base % 4) (h : base ≤ off ∧ off < base + 4 * n) :
    ∃ i : Fin n, off = base + 4 * i :=
  ⟨⟨(off - base) / 4, by omega⟩, by simp only; omega⟩

/-- The ranges that R51 calls reserved. -/
def ReservedOffset (off : Nat) : Prop :=
  0x008 ≤ off ∧ off ≤ 0x03C ∨ 0x070 ≤ off ∧ off ≤ 0x07C ∨ 0x164 ≤ off ∧ off ≤ 0x16C ∨ 0x180 ≤ off ∧ off ≤ 0x1FC

theorem ReservedOffset.ne_regOffset {off : Nat} (h : ReservedOffset off) (r : Reg) : regOffset r ≠ off := by
  unfold ReservedOffset at h
  cases r <;> simp only [regOffset] <;> omega

/-- The rows of R51 cover every word offset that it does not call reserved. -/
theorem exists_regOffset {off : Nat} (aligned : off % 4 = 0) (inside : off < 0x200) (h : ¬ ReservedOffset off) :
    ∃ r, off = regOffset r := by
  have rows : off = 0x000 ∨ off = 0x004 ∨ (0x040 ≤ off ∧ off < 0x040 + 4 * 8) ∨ off = 0x060 ∨
      (0x064 ≤ off ∧ off < 0x064 + 4 * 3) ∨ (0x080 ≤ off ∧ off < 0x080 + 4 * 16) ∨ (0x0C0 ≤ off ∧ off < 0x0C0 + 4 * 16) ∨
      (0x100 ≤ off ∧ off < 0x100 + 4 * 8) ∨ (0x120 ≤ off ∧ off < 0x120 + 4 * 4) ∨ (0x130 ≤ off ∧ off < 0x130 + 4 * 4) ∨
      (0x140 ≤ off ∧ off < 0x140 + 4 * 4) ∨ (0x150 ≤ off ∧ off < 0x150 + 4 * 5) ∨ (0x170 ≤ off ∧ off < 0x170 + 4 * 4) := by
    unfold ReservedOffset at h
    omega
  obtain h | h | h | h | h | h | h | h | h | h | h | h | h := rows
  · exact ⟨.cmd, h⟩
  · exact ⟨.status, h⟩
  · exact (exists_slot aligned h).imp' Reg.ckey fun _ => id
  · exact ⟨.cctr, h⟩
  · exact (exists_slot aligned h).imp' Reg.cnonce fun _ => id
  · exact (exists_slot aligned h).imp' Reg.state fun _ => id
  · exact (exists_slot aligned h).imp' Reg.saved fun _ => id
  · exact (exists_slot aligned h).imp' Reg.pkey fun _ => id
  · exact (exists_slot aligned h).imp' Reg.msg fun _ => id
  · exact (exists_slot aligned h).imp' Reg.pr fun _ => id
  · exact (exists_slot aligned h).imp' Reg.ps fun _ => id
  · exact (exists_slot aligned h).imp' Reg.acc fun _ => id
  · exact (exists_slot aligned h).imp' Reg.tag fun _ => id

/-! ### Reads and writes by offset -/

@[simp] theorem memRead_regOffset (r : Reg) (s : State) : memRead (regOffset r) s = readReg r s := by
  rw [memRead, regAt_regOffset]

theorem memRead_of_no_register {off : Nat} (h : ∀ r, regOffset r ≠ off) (s : State) : memRead off s = (0, s) := by
  rw [memRead, regAt_eq_none h]

theorem memWrite_cmd (v : Word) (s : State) : memWrite (regOffset .cmd) v s = issue v s := rfl

theorem memWrite_regOffset {r : Reg} (h : r ≠ .cmd) (v : Word) (s : State) :
    memWrite (regOffset r) v s = .next (writeReg r v s) := by
  rw [memWrite, regAt_regOffset]
  cases r with
  | cmd => exact absurd rfl h
  | _ => rfl

theorem memWrite_of_no_register {off : Nat} (h : ∀ r, regOffset r ≠ off) (v : Word) (s : State) :
    memWrite off v s = .next s := by
  rw [memWrite, regAt_eq_none h]

/-- Settles O40: no register stands in a reserved range, and the rows of the map cover the rest. -/
theorem reservedOffsetsReadZeroAndIgnoreWrites : Obligations.ReservedOffsetsReadZeroAndIgnoreWrites := by
  intro off v s aligned inside
  refine ⟨fun (h : ReservedOffset off) => ?_, fun (h : ¬ ReservedOffset off) => ?_⟩
  · exact ⟨memRead_of_no_register h.ne_regOffset s, memWrite_of_no_register h.ne_regOffset v s⟩
  · obtain ⟨r, rfl⟩ := exists_regOffset aligned inside h
    exact ⟨r, regAt_regOffset r⟩

theorem memRead_frame (off : Nat) (s : State) : (memRead off s).2 = { s with draws := (memRead off s).2.draws } := by
  rw [memRead_state]

/-! ### `MemRead` row by row -/

theorem memRead_value (r : Reg) (s : State) :
    (memRead (regOffset r) s).1 = if readsDraw r s then Config.draw s.draws else regValue r s := by
  rw [memRead_regOffset, readReg_value]

/-- A read of an output register of PE, as a number. -/
theorem memRead_pe_toNat {r : Reg} {s : State} {n : Nat} (output : readsDraw r s = s.pbusy) (value : (regValue r s).toNat = n) :
    (memRead (regOffset r) s).1.toNat = if s.pbusy then (Config.draw s.draws).toNat else n := by
  rw [memRead_value, output, apply_ite BitVec.toNat, value]

theorem wordAt_toNat {n : Nat} (v : BitVec n) (i : Nat) : (wordAt v i).toNat = v.toNat / 2 ^ (32 * i) % 2 ^ 32 := by
  rw [wordAt, BitVec.extractLsb'_toNat, Nat.shiftRight_eq_div_pow]

theorem regValue_acc_low (s : State) (i : Fin 4) : regValue (.acc i.castSucc) s = wordAt (s.acc.setWidth 128) i :=
  if_pos i.isLt

/-- ACC0..3 are words of ACC itself: the two bits above bit 127 are in none of them. -/
theorem regValue_acc_low_toNat (s : State) (i : Fin 4) :
    (regValue (.acc i.castSucc) s).toNat = s.acc.toNat / 2 ^ (32 * i.val) % 2 ^ 32 := by
  rw [regValue_acc_low, wordAt_toNat, BitVec.toNat_setWidth]
  obtain ⟨i, hi⟩ := i
  interval_cases i <;> simp only <;> omega

/-- Settles O41: row by row, the register at the offset, its value or a draw, and the frame of a read. -/
theorem readReturnsTheRegisterOrADraw : Obligations.ReadReturnsTheRegisterOrADraw := by
  intro s
  refine ⟨memRead_value .cmd s, memRead_value .status s, fun i => memRead_value (.ckey i) s, memRead_value .cctr s,
    fun i => memRead_value (.cnonce i) s, fun i => memRead_value (.state i) s, fun i => memRead_value (.saved i) s,
    fun i => memRead_value (.pkey i) s, fun i => memRead_value (.msg i) s,
    fun i => memRead_pe_toNat (r := .pr i) rfl (wordAt_toNat s.regR i),
    fun i => memRead_pe_toNat (r := .ps i) rfl (wordAt_toNat s.regS i),
    fun i => memRead_pe_toNat (r := .acc i.castSucc) rfl (regValue_acc_low_toNat s i),
    memRead_pe_toNat (r := .acc 4) rfl (regValue_acc_four_toNat s),
    fun i => memRead_pe_toNat (r := .tag i) rfl (wordAt_toNat s.tag i), fun off h => ?_, fun off => memRead_frame off s⟩
  rw [memRead_of_no_register h]

/-! ### `MemWrite` row by row -/

/-- Settles O43: row by row, the write of the register at the offset. -/
theorem writeStoresRejectsOrIsIgnored : Obligations.WriteStoresRejectsOrIsIgnored := by
  intro v s
  have row (r : Reg) (h : r ≠ .cmd) : memWrite (regOffset r) v s = .next (writeReg r v s) := memWrite_regOffset h v s
  exact ⟨memWrite_cmd v s, fun i => row (.ckey i) nofun, row .cctr nofun, fun i => row (.cnonce i) nofun,
    fun i => row (.state i) nofun, fun i => row (.pkey i) nofun, fun i => row (.msg i) nofun, row .status nofun,
    fun i => row (.saved i) nofun, fun i => ⟨row (.pr i) nofun, row (.ps i) nofun, row (.tag i) nofun⟩,
    fun i => row (.acc i) nofun, fun off h => memWrite_of_no_register h v s⟩

/-! ### Read after write -/

/-- An RW data register whose engine is idle (20_memory.md R57). -/
def StoresWrites (r : Reg) (s : State) : Prop :=
  (s.cbusy = false ∧ ((∃ i, r = .ckey i) ∨ r = .cctr ∨ (∃ i, r = .cnonce i) ∨ ∃ i, r = .state i)) ∨
    (s.pbusy = false ∧ ((∃ i, r = .pkey i) ∨ ∃ i, r = .msg i))

theorem writeCE_of_idle {u s : State} (idle : s.cbusy = false) : writeCE u s = u :=
  if_neg (by simp [idle])

theorem writePE_of_idle {u s : State} (idle : s.pbusy = false) : writePE u s = u :=
  if_neg (by simp [idle])

theorem StoresWrites.ne_cmd {r : Reg} {s : State} (h : StoresWrites r s) : r ≠ .cmd := by
  rintro rfl
  simp [StoresWrites] at h

/-- The written register holds the word, and a read of it is no draw. -/
theorem StoresWrites.readReg_same {r : Reg} {s : State} (h : StoresWrites r s) (v : Word) :
    readReg r (writeReg r v s) = (v, writeReg r v s) := by
  obtain ⟨idle, ⟨i, rfl⟩ | rfl | ⟨i, rfl⟩ | ⟨i, rfl⟩⟩ | ⟨idle, ⟨i, rfl⟩ | ⟨i, rfl⟩⟩ := h
  all_goals simp [writeReg, writeCE_of_idle, writePE_of_idle, idle, readReg, readsDraw, regValue]

theorem getElem_set_of_ne {n : Nat} (ws : Vector Word n) (v : Word) {i j : Fin n} (h : i ≠ j) : (ws.set i v)[j] = ws[j] :=
  Vector.getElem_set_ne i.isLt j.isLt (Fin.val_ne_of_ne h)

/-- Every other register holds what it held. -/
theorem StoresWrites.regValue_other {r r' : Reg} {s : State} (h : StoresWrites r s) (ne : r ≠ r') (v : Word) :
    regValue r' (writeReg r v s) = regValue r' s := by
  obtain ⟨idle, h⟩ | ⟨idle, h⟩ := h
  · obtain ⟨i, rfl⟩ | rfl | ⟨i, rfl⟩ | ⟨i, rfl⟩ := h <;> rw [writeReg, writeCE_of_idle idle]
    · cases r' with
      | ckey j => exact getElem_set_of_ne _ v fun e => ne (congrArg _ e)
      | _ => rfl
    · cases r' with
      | cctr => exact absurd rfl ne
      | _ => rfl
    · cases r' with
      | cnonce j => exact getElem_set_of_ne _ v fun e => ne (congrArg _ e)
      | _ => rfl
    · cases r' with
      | state j => exact getElem_set_of_ne _ v fun e => ne (congrArg _ e)
      | _ => rfl
  · obtain ⟨i, rfl⟩ | ⟨i, rfl⟩ := h <;> rw [writeReg, writePE_of_idle idle]
    · cases r' with
      | pkey j => exact getElem_set_of_ne _ v fun e => ne (congrArg _ e)
      | _ => rfl
    · cases r' with
      | msg j => exact getElem_set_of_ne _ v fun e => ne (congrArg _ e)
      | _ => rfl

/-- A byte of the window depends on the register it stands in, if any. -/
theorem windowByte_congr {s t : State} {a : Nat} (h : ∀ r, regOffset r = a - a % 4 → regValue r t = regValue r s) :
    windowByte t a = windowByte s a := by
  unfold windowByte
  cases at_a : regAt (a - a % 4) with
  | none => rfl
  | some r => simp only [h r (offset_of_regAt at_a).symm]

/-- Settles O44: the register reads back the word, and a byte outside its four stands in another register or in none. -/
theorem writtenWordReadsBackAndNothingElseChanges : Obligations.WrittenWordReadsBackAndNothingElseChanges := by
  intro r v s (h : StoresWrites r s)
  refine ⟨writeReg r v s, memWrite_regOffset h.ne_cmd v s, ?_, fun a outside => windowByte_congr fun r' at_a => ?_⟩
  · rw [memRead_regOffset, h.readReg_same]
  · refine h.regValue_other ?_ v
    rintro rfl
    omega

/-! ### The bytes of the window -/

/-- Byte `j` of a register of the window. -/
theorem windowByte_regOffset (s : State) (r : Reg) {j : Nat} (h : j < 4) :
    windowByte s (regOffset r + j) = (bytes32 (regValue r s)).getD j 0 := by
  have aligned := regOffset_mod r
  have lane : (regOffset r + j) % 4 = j := by omega
  rw [windowByte, lane, Nat.add_sub_cancel, regAt_regOffset]

theorem byteAtAddress_of_lt (s : State) {off : Nat} (h : off < winSize) :
    byteAtAddress s (Config.coreBase + off) = some (windowByte s off) := by
  rw [byteAtAddress, if_pos ⟨by omega, by omega⟩, Nat.add_sub_cancel_left]

theorem byteAtAddress_outside (s : State) {addr : Nat} (h : addr < Config.coreBase ∨ Config.coreBase + winSize ≤ addr) :
    byteAtAddress s addr = none :=
  if_neg (by omega)

/-- Byte `m` of a row of registers is byte `m mod 4` of register `m div 4`. -/
theorem byteAtAddress_of_row (s : State) {base n : Nat} {row : Fin n → Reg} (stands : ∀ i, regOffset (row i) = base + 4 * i)
    {m : Nat} (h : m / 4 < n) :
    byteAtAddress s (Config.coreBase + base + m) = some ((bytes32 (regValue (row ⟨m / 4, h⟩) s)).getD (m % 4) 0) := by
  have lane : m % 4 < 4 := Nat.mod_lt m (by decide)
  have place : Config.coreBase + base + m = Config.coreBase + (regOffset (row ⟨m / 4, h⟩) + m % 4) := by
    rw [stands]
    simp only
    omega
  rw [place, byteAtAddress_of_lt s (regOffset_add_lt _ lane), windowByte_regOffset s _ lane]

theorem bytes32_getD_toNat (w : Word) {j : Nat} (h : j < 4) : ((bytes32 w).getD j 0).toNat = w.toNat / 2 ^ (8 * j) % 2 ^ 8 := by
  interval_cases j <;> simp [bytes32, Nat.shiftRight_eq_div_pow]

/-- Byte `j` of word `i` of a serialisation. -/
theorem flatMap_bytes32_getElem? (ws : List Word) (i : Nat) {j : Nat} (h : j < 4) :
    (ws.flatMap bytes32)[4 * i + j]? = ws[i]?.map fun w => (bytes32 w).getD j 0 := by
  induction ws generalizing i with
  | nil => simp
  | cons w ws ih =>
    cases i with
    | zero => interval_cases j <;> simp [bytes32]
    | succ i =>
      have skip : 4 * (i + 1) + j = 4 * i + j + 4 := by omega
      simpa [skip, bytes32] using ih i

/-- Byte `m` of the keystream block is byte `m mod 4` of word `m div 4` (41_chacha_block.md R127). -/
theorem keystream_getElem? (x : Vector Word 16) {m : Nat} (h : m / 4 < 16) :
    (keystream x)[m]? = some ((bytes32 x[m / 4]).getD (m % 4) 0) := by
  have byte := flatMap_bytes32_getElem? x.toList (m / 4) (Nat.mod_lt m (by decide : 0 < 4))
  rw [Nat.div_add_mod] at byte
  rw [keystream, byte]
  simp [h]

/-- A byte of word `q` of a number is a byte of the number. -/
theorem byte_of_word (t q : Nat) {j : Nat} (h : j < 4) :
    t / 2 ^ (32 * q) % 2 ^ 32 / 2 ^ (8 * j) % 2 ^ 8 = t / 2 ^ (8 * (4 * q + j)) % 2 ^ 8 := by
  have split : 8 * (4 * q + j) = 32 * q + 8 * j := by omega
  rw [split, Nat.pow_add, ← Nat.div_div_eq_div_mul]
  interval_cases j <;> omega

/-- Settles O48: both rows of registers, their words' bytes in order, and the window's two ends. -/
theorem windowBytesAreLittleEndian : Obligations.WindowBytesAreLittleEndian := by
  intro s
  refine ⟨fun m => ?_, fun m => ?_, fun addr => byteAtAddress_outside s⟩
  · have word : m.val / 4 < 16 := by omega
    refine ⟨_, byteAtAddress_of_row s (row := Reg.state) (fun _ => rfl) word, keystream_getElem? s.x word, ?_⟩
    rw [bytes32_getD_toNat _ (Nat.mod_lt _ (by decide))]
    simp [regValue, word]
  · have lane : m.val % 4 < 4 := Nat.mod_lt _ (by decide)
    refine ⟨_, byteAtAddress_of_row s (row := Reg.tag) (fun _ => rfl) (by omega), ?_⟩
    rw [bytes32_getD_toNat _ lane, regValue, wordAt_toNat, byte_of_word _ _ lane, Nat.div_add_mod]

end Sys2Proof.Machine
end

section
/-!
PROOFS. The steps of the agents (20_memory.md R53 to R62): the accesses of a HOST, the completion steps of the engines in
either order, the inputs of a busy engine, and progress.
-/

namespace Sys2Proof.Machine

/-! ### The accesses of a HOST -/

theorem step_access {s : State} {k : Nat} {a : BusAccess} (turn : mover s = .host k) (next : nextOp k s = some (.access a)) :
    step s = onNext tick (busAccess k a s) := by
  simp only [step, turn, moveOf, hostMove, next]

theorem regValue_with_draws (r : Reg) (s : State) (n : Nat) : regValue r { s with draws := n } = regValue r s := by
  cases r <;> rfl

theorem regValue_memRead (r : Reg) (off : Nat) (s : State) : regValue r (memRead off s).2 = regValue r s := by
  rw [memRead_state, regValue_with_draws]

theorem busAccess_read {off bytes : Nat} (h : admitted off bytes = true) (k : Nat) (s : State) :
    busAccess k (.read off bytes) s = .next (updateHost k (HostState.readBack (memRead off s).1) (memRead off s).2) :=
  if_pos h

theorem busAccess_write {off bytes : Nat} (h : admitted off bytes = true) (k : Nat) (v : Word) (s : State) :
    busAccess k (.write off bytes v) s = onNext (updateHost k HostState.advance) (memWrite off v s) :=
  if_pos h

theorem busAccess_read_refused {off bytes : Nat} (h : admitted off bytes = false) (k : Nat) (s : State) :
    busAccess k (.read off bytes) s = .next (updateHost k HostState.busError s) :=
  if_neg (by simp [h])

theorem busAccess_write_refused {off bytes : Nat} (h : admitted off bytes = false) (k : Nat) (v : Word) (s : State) :
    busAccess k (.write off bytes v) s = .next (updateHost k HostState.busError s) :=
  if_neg (by simp [h])

theorem onNext_onNext (f g : State → State) (o : Host.Outcome State Fault Refusal) :
    onNext f (onNext g o) = onNext (fun t => f (g t)) o := by
  cases o <;> rfl

/-- Settles O42: the step is the access, with the HOST and the schedule moved on. -/
theorem stepPerformsTheAdmittedAccess : Obligations.StepPerformsTheAdmittedAccess := by
  refine ⟨fun off s => ⟨memRead_frame off s, fun r => regValue_memRead r off s⟩,
    fun s k off turn adm => ⟨fun next => ?_, fun v next => ?_⟩⟩
  · rw [step_access turn next, busAccess_read adm, memRead_state]
    rfl
  · rw [step_access turn next, busAccess_write adm, onNext_onNext]

theorem admitted_eq_false {off bytes : Nat} (h : ¬ (bytes = 4 ∧ off % 4 = 0 ∧ off < 0x200)) : admitted off bytes = false :=
  decide_eq_false h

/-- Settles O45: a refused access is a bus error of its HOST, whether it reads or writes. -/
theorem busErrorTouchesOnlyTheHost : Obligations.BusErrorTouchesOnlyTheHost := by
  intro s k off bytes v turn h next
  have refused := admitted_eq_false h
  obtain next | next := next
  · rw [step_access turn next, busAccess_read_refused refused]
    rfl
  · rw [step_access turn next, busAccess_write_refused refused]
    rfl

/-- Settles O46, which is the last clause of what every step does. -/
theorem hostFaultIsNeverCleared : Obligations.HostFaultIsNeverCleared := by
  intro s t k g h at_k fault
  obtain ⟨u, hosts, n, -, rfl, keeps⟩ := step_cases h
  exact keeps k g at_k fault

/-! ### Completion in either order -/

/-- Settles O7: a busy engine's move executes what its slot holds. -/
theorem stepRunsThePendingCommand : Obligations.StepRunsThePendingCommand := by
  refine fun s => ⟨fun c turn busy pending => ?_, fun c turn busy pending => ?_⟩
  · simp only [step, turn, moveOf, ceMove, busy, pending]
  · simp only [step, turn, moveOf, peMove, busy, pending]

/-- The core after CE's completion step: the pending command done, if there is one. -/
def ceCompleted (s : State) : State :=
  match s.cpend with
  | some c => retireCE (ceEffect c s)
  | none => s

/-- The core after PE's completion step. -/
def peCompleted (s : State) : State :=
  match s.ppend with
  | some c => retirePE (peEffect c s)
  | none => s

theorem ceCompleted_of_pending {c : CECmd} {s : State} (h : s.cpend = some c) : ceCompleted s = retireCE (ceEffect c s) := by
  rw [ceCompleted, h]

theorem ceCompleted_of_none {s : State} (h : s.cpend = none) : ceCompleted s = s := by
  rw [ceCompleted, h]

theorem peCompleted_of_pending {c : PECmd} {s : State} (h : s.ppend = some c) : peCompleted s = retirePE (peEffect c s) := by
  rw [peCompleted, h]

theorem peCompleted_of_none {s : State} (h : s.ppend = none) : peCompleted s = s := by
  rw [peCompleted, h]

theorem Inv.after_ceCompleted {s : State} (inv : Inv s) : Inv (ceCompleted s) := by
  cases h : s.cpend with
  | none => rwa [ceCompleted_of_none h]
  | some c => rw [ceCompleted_of_pending h]; exact inv.after_ceDone c

theorem Inv.after_peCompleted {s : State} (inv : Inv s) : Inv (peCompleted s) := by
  cases h : s.ppend with
  | none => rwa [peCompleted_of_none h]
  | some c => rw [peCompleted_of_pending h]; exact inv.after_peDone c

theorem step_ce {s : State} (inv : Inv s) (turn : mover s = .ce) :
    step s = .next { ceCompleted s with sched := s.sched.tail } := by
  cases busy : s.cbusy with
  | false => rw [step_ce_idle turn busy, ceCompleted_of_none (inv.cpend_eq_none busy)]
  | true =>
    obtain ⟨c, pending, wf⟩ := inv.exists_cpend busy
    rw [step_ce_busy turn busy pending wf, ceCompleted_of_pending pending]

theorem step_pe {s : State} (inv : Inv s) (turn : mover s = .pe) :
    step s = .next { peCompleted s with sched := s.sched.tail } := by
  cases busy : s.pbusy with
  | false => rw [step_pe_idle turn busy, peCompleted_of_none (inv.ppend_eq_none busy)]
  | true =>
    obtain ⟨c, pending, wf⟩ := inv.exists_ppend busy
    rw [step_pe_busy turn busy pending wf, peCompleted_of_pending pending]

/-- CE's rules read nothing that PE's completion writes, and PE's rules nothing that CE's writes. -/
theorem retire_effects_commute (c : CECmd) (d : PECmd) (s : State) :
    retireCE (ceEffect c (retirePE (peEffect d s))) = retirePE (peEffect d (retireCE (ceEffect c s))) := by
  cases c <;> cases d <;>
    simp only [ceEffect, effectCcInit, effectCcQr, effectCcDround, effectCcRounds_eq, effectCcFeedfwd, effectCcBlock_eq, peEffect,
      effectPKey, effectPBlock, effectPFinal, retireCE, retirePE]

theorem peCompleted_cpend (s : State) : (peCompleted s).cpend = s.cpend := by
  cases h : s.ppend with
  | none => rw [peCompleted_of_none h]
  | some d => rw [peCompleted_of_pending h, peEffect_frame]; rfl

theorem ceCompleted_ppend (s : State) : (ceCompleted s).ppend = s.ppend := by
  cases h : s.cpend with
  | none => rw [ceCompleted_of_none h]
  | some c => rw [ceCompleted_of_pending h, ceEffect_frame]; rfl

/-- The two completions commute: a slot that is empty stays so, and the rules of two pending commands are independent. -/
theorem ceCompleted_peCompleted (s : State) : ceCompleted (peCompleted s) = peCompleted (ceCompleted s) := by
  have ce := peCompleted_cpend s
  have pe := ceCompleted_ppend s
  cases hc : s.cpend with
  | none => rw [ceCompleted_of_none hc, ceCompleted_of_none (ce.trans hc)]
  | some c =>
    rw [ceCompleted_of_pending (ce.trans hc)]
    cases hp : s.ppend with
    | none => rw [peCompleted_of_none hp, peCompleted_of_none (pe.trans hp), ceCompleted_of_pending hc]
    | some d =>
      rw [peCompleted_of_pending hp, peCompleted_of_pending (pe.trans hp), ceCompleted_of_pending hc]
      exact retire_effects_commute c d s

theorem ceEffect_with_sched (c : CECmd) (s : State) (sched : List Agent) :
    ceEffect c { s with sched := sched } = { ceEffect c s with sched := sched } := by
  cases c with
  | rounds => simp only [ceEffect, effectCcRounds_eq]
  | block => simp only [ceEffect, effectCcBlock_eq]
  | _ => rfl

theorem peEffect_with_sched (d : PECmd) (s : State) (sched : List Agent) :
    peEffect d { s with sched := sched } = { peEffect d s with sched := sched } := by
  cases d <;> rfl

theorem ceCompleted_with_sched (s : State) (sched : List Agent) :
    ceCompleted { s with sched := sched } = { ceCompleted s with sched := sched } := by
  obtain h | ⟨c, h⟩ := s.cpend.eq_none_or_eq_some
  · rw [ceCompleted_of_none h, ceCompleted_of_none (s := { s with sched := sched }) h]
  · rw [ceCompleted_of_pending h, ceCompleted_of_pending (s := { s with sched := sched }) h, ceEffect_with_sched]
    rfl

theorem peCompleted_with_sched (s : State) (sched : List Agent) :
    peCompleted { s with sched := sched } = { peCompleted s with sched := sched } := by
  obtain h | ⟨d, h⟩ := s.ppend.eq_none_or_eq_some
  · rw [peCompleted_of_none h, peCompleted_of_none (s := { s with sched := sched }) h]
  · rw [peCompleted_of_pending h, peCompleted_of_pending (s := { s with sched := sched }) h, peEffect_with_sched]
    rfl

/-! ### Runs -/

theorem run_zero (s : State) : core.run 0 s = .next s := rfl

theorem run_succ {s t : State} (h : step s = .next t) (n : Nat) : core.run (n + 1) s = core.run n t := by
  have h : core.step s = .next t := h
  simp only [Host.Core.run, h]

theorem run_ce {s : State} (inv : Inv s) (rest : List Agent) (n : Nat) :
    core.run (n + 1) { s with sched := .ce :: rest } = core.run n { ceCompleted s with sched := rest } := by
  have h := step_ce (inv.with_hosts_sched_draws s.hosts (.ce :: rest) s.draws) rfl
  rw [ceCompleted_with_sched] at h
  exact run_succ h n

theorem run_pe {s : State} (inv : Inv s) (rest : List Agent) (n : Nat) :
    core.run (n + 1) { s with sched := .pe :: rest } = core.run n { peCompleted s with sched := rest } := by
  have h := step_pe (inv.with_hosts_sched_draws s.hosts (.pe :: rest) s.draws) rfl
  rw [peCompleted_with_sched] at h
  exact run_succ h n

/-- Settles O54: two steps in either order leave the two completions, which commute. -/
theorem completionsOfTheEnginesCommute : Obligations.CompletionsOfTheEnginesCommute := by
  intro s rest inv
  refine ⟨{ peCompleted (ceCompleted s) with sched := rest }, ?_, ?_⟩
  · rw [run_ce inv, run_pe inv.after_ceCompleted]
    rfl
  · rw [run_pe inv, run_ce inv.after_peCompleted, ceCompleted_peCompleted]
    rfl

/-! ### The inputs of a busy engine -/

/-- Settles O56, by the cases of what a move can do to the core: a HOST's write to an input needs its engine idle. -/
theorem inputsOfABusyEngineAreStable : Obligations.InputsOfABusyEngineAreStable := by
  intro s t h
  obtain ⟨u, hosts, n, move, rfl, -⟩ := step_cases h
  cases move with
  | reset => exact .inl rfl
  | ceDone c _ _ _ turn =>
    rw [ceEffect_frame]
    exact .inr ⟨fun _ => ⟨rfl, rfl, rfl⟩, fun _ other => absurd turn other, fun _ => ⟨rfl, rfl⟩⟩
  | peDone c =>
    rw [peEffect_frame]
    exact .inr ⟨fun _ => ⟨rfl, rfl, rfl⟩, fun _ _ => rfl, fun _ => ⟨rfl, rfl⟩⟩
  | ceInputs idle host =>
    obtain ⟨k, turn⟩ := host
    exact .inr ⟨by simp [idle, turn], fun _ _ => rfl, fun _ => ⟨rfl, rfl⟩⟩
  | stateWord idle =>
    exact .inr ⟨fun _ => ⟨rfl, rfl, rfl⟩, by simp [idle], fun _ => ⟨rfl, rfl⟩⟩
  | peInputs idle host =>
    obtain ⟨k, turn⟩ := host
    exact .inr ⟨fun _ => ⟨rfl, rfl, rfl⟩, fun _ _ => rfl, by simp [idle, turn]⟩
  | _ => exact .inr ⟨fun _ => ⟨rfl, rfl, rfl⟩, fun _ _ => rfl, fun _ => ⟨rfl, rfl⟩⟩

/-! ### Progress -/

theorem exec_answers (i : Instr) (s : State) : ∃ t, exec i s = .next t := by
  cases i <;> exact ⟨_, rfl⟩

theorem memWrite_answers (off : Nat) (v : Word) (s : State) : ∃ t, memWrite off v s = .next t := by
  unfold memWrite
  split
  · unfold issue
    split
    · exact ⟨_, rfl⟩
    · exact exec_answers _ s
  · exact ⟨_, rfl⟩
  · exact ⟨_, rfl⟩

theorem busAccess_answers (k : Nat) (a : BusAccess) (s : State) : ∃ t, busAccess k a s = .next t := by
  cases a with
  | read off bytes =>
    cases h : admitted off bytes with
    | false => exact ⟨_, busAccess_read_refused h k s⟩
    | true => exact ⟨_, busAccess_read h k s⟩
  | write off bytes v =>
    cases h : admitted off bytes with
    | false => exact ⟨_, busAccess_write_refused h k v s⟩
    | true =>
      obtain ⟨t, ht⟩ := memWrite_answers off v s
      exact ⟨updateHost k HostState.advance t, by rw [busAccess_write h, ht, onNext_next]⟩

theorem moveOf_answers (a : Agent) (s : State) : ∃ t, moveOf a s = .next t := by
  cases a with
  | host k =>
    simp only [moveOf, hostMove]
    split
    · exact busAccess_answers k _ s
    · exact ⟨_, rfl⟩
    · exact ⟨_, rfl⟩
  | ce =>
    simp only [moveOf, ceMove]
    split
    · exact exec_answers _ s
    · exact ⟨_, rfl⟩
  | pe =>
    simp only [moveOf, peMove]
    split
    · exact exec_answers _ s
    · exact ⟨_, rfl⟩
  | resetInput => exact ⟨_, rfl⟩

/-- No step stops the machine (60_exceptions.md R209). -/
theorem step_answers (s : State) : ∃ t, step s = .next t := by
  obtain ⟨t, ht⟩ := moveOf_answers (mover s) s
  exact ⟨tick t, by rw [step, ht]; rfl⟩

theorem step_sched {s t : State} (h : step s = .next t) : t.sched = s.sched.tail := by
  obtain ⟨u, hosts, n, -, rfl, -⟩ := step_cases h
  rfl

/-- Within `n` steps a state is reached in which both engines are idle, with empty slots. -/
def IdleWithin (n : Nat) (s : State) : Prop :=
  ∃ m t, m ≤ n ∧ core.run m s = .next t ∧ t.cbusy = false ∧ t.pbusy = false ∧ t.cpend = none ∧ t.ppend = none

theorem IdleWithin.of_step {n : Nat} {s u : State} (h : step s = .next u) (idle : IdleWithin n u) : IdleWithin (n + 1) s := by
  obtain ⟨m, t, le, run, rest⟩ := idle
  exact ⟨m + 1, t, Nat.succ_le_succ le, (run_succ h m).trans run, rest⟩

theorem IdleWithin.of_idle {s : State} (inv : Inv s) (ce : s.cbusy = false) (pe : s.pbusy = false) (n : Nat) : IdleWithin n s :=
  ⟨0, s, n.zero_le, run_zero s, ce, pe, inv.cpend_eq_none ce, inv.ppend_eq_none pe⟩

/-- With the schedule used up and CE idle, a busy PE moves. -/
theorem idleWithin_one {s : State} (inv : Inv s) (used_up : s.sched = []) (ce : s.cbusy = false) : IdleWithin 1 s := by
  cases pe : s.pbusy with
  | false => exact .of_idle inv ce pe 1
  | true =>
    have turn : mover s = .pe := by simp [mover, used_up, ce, pe]
    obtain ⟨t, ht⟩ := step_answers s
    have frame := step_pe_frame inv turn ht
    refine .of_step ht (.of_idle (everyStepKeepsTheInvariants s t inv ht) ?_ ?_ 0)
    · rw [frame, ce]
    · rw [frame]

/-- With the schedule used up, a busy CE moves before a busy PE (log 2). -/
theorem idleWithin_two {s : State} (inv : Inv s) (used_up : s.sched = []) : IdleWithin 2 s := by
  cases ce : s.cbusy with
  | false =>
    obtain ⟨m, t, le, rest⟩ := idleWithin_one inv used_up ce
    exact ⟨m, t, Nat.le_succ_of_le le, rest⟩
  | true =>
    have turn : mover s = .ce := by simp [mover, used_up, ce]
    obtain ⟨t, ht⟩ := step_answers s
    have frame := step_ce_frame inv turn ht
    refine .of_step ht (idleWithin_one (everyStepKeepsTheInvariants s t inv ht) ?_ ?_)
    · rw [step_sched ht, used_up, List.tail_nil]
    · rw [frame]

/-- Each step uses up one entry of the schedule and keeps the invariants. -/
theorem idleWithin_schedule (l : List Agent) {s : State} (inv : Inv s) (h : s.sched = l) : IdleWithin (l.length + 2) s := by
  induction l generalizing s with
  | nil => exact idleWithin_two inv h
  | cons a l ih =>
    obtain ⟨t, ht⟩ := step_answers s
    refine .of_step ht (ih (everyStepKeepsTheInvariants s t inv ht) ?_)
    rw [step_sched ht, h, List.tail_cons]

/-- Settles O60, by induction on the schedule; once it is used up, the busy engines move. -/
theorem enginesBecomeIdle : Obligations.EnginesBecomeIdle :=
  fun _ inv => idleWithin_schedule _ inv rfl

end Sys2Proof.Machine
end

section
/-!
PROOFS. The command word (30_encoding.md R80 to R84): a word with a defined opcode has the fields of a command, decode
checks the reserved bits and the operands of that command, and the rows of the opcode map. Then what a command does with
operands that no word decodes to (R83, log 14), and `bset` (R86).
-/

namespace Sys2Proof

/-! ### The fields of a word -/

/-- The lowest reserved bit of the command's format (30_encoding.md R80): every bit from there up must be 0. -/
def reservedFrom : Instr → Nat
  | .ccQr _ _ _ _ => 24
  | .pBlock _ => 13
  | .clrerr | .srst | .ccInit | .ccDround | .ccRounds | .ccFeedfwd | .ccBlock | .pKey | .pFinal => 8

/-- Below the reserved bits of the command's format, the word is the command's encoding. -/
def HasFields (w : Word) (i : Instr) : Prop :=
  w.toNat % 2 ^ reservedFrom i = (encode i).toNat

theorem encode_lt (i : Instr) : (encode i).toNat < 2 ^ reservedFrom i := by
  rw [encode_toNat]
  cases i with
  | ccQr a b c d => simp only [opcode, operandBits, reservedFrom, BitVec.toNat_ofNat]; omega
  | pBlock len => simp only [opcode, operandBits, reservedFrom, BitVec.toNat_ofNat]; omega
  | _ => decide

theorem encode_hasFields (i : Instr) : HasFields (encode i) i :=
  Nat.mod_eq_of_lt (encode_lt i)

/-- The lowest field of every format is OP. -/
theorem HasFields.mod_eq_opcode {w : Word} {i : Instr} (h : HasFields w i) : w.toNat % 2 ^ 8 = (opcode i).toNat := by
  have above : 2 ^ 8 ∣ 2 ^ reservedFrom i := Nat.pow_dvd_pow 2 (by cases i <;> simp [reservedFrom])
  have := operandBits_mod i
  have := (opcode i).isLt
  rw [← Nat.mod_mod_of_dvd _ above, h, encode_toNat]
  omega

theorem hasFields_ccQr {w : Word} {a b c d : Fin 16} (op : w.toNat % 2 ^ 8 = 0x11) (ha : w.toNat / 2 ^ 8 % 16 = a)
    (hb : w.toNat / 2 ^ 12 % 16 = b) (hc : w.toNat / 2 ^ 16 % 16 = c) (hd : w.toNat / 2 ^ 20 % 16 = d) :
    HasFields w (.ccQr a b c d) := by
  simp only [HasFields, reservedFrom, encode_toNat, opcode, operandBits, BitVec.toNat_ofNat]
  omega

theorem hasFields_ccQr_bitField {w : Word} (op : w.toNat % 2 ^ 8 = 0x11) :
    HasFields w (.ccQr (bitField w 8 4) (bitField w 12 4) (bitField w 16 4) (bitField w 20 4)) :=
  hasFields_ccQr op (bitField_val w 8 4).symm (bitField_val w 12 4).symm (bitField_val w 16 4).symm
    (bitField_val w 20 4).symm

theorem hasFields_pBlock {w : Word} {len : Fin 32} (op : w.toNat % 2 ^ 8 = 0x21) (hlen : w.toNat / 2 ^ 8 % 32 = len) :
    HasFields w (.pBlock len) := by
  simp only [HasFields, reservedFrom, encode_toNat, opcode, operandBits, BitVec.toNat_ofNat]
  omega

theorem hasFields_pBlock_bitField {w : Word} (op : w.toNat % 2 ^ 8 = 0x21) : HasFields w (.pBlock (bitField w 8 5)) :=
  hasFields_pBlock op (bitField_val w 8 5).symm

/-- The opcodes of 30_encoding.md R82. -/
def definedOpcodes : List Nat :=
  [0x01, 0x02, 0x10, 0x11, 0x12, 0x13, 0x14, 0x15, 0x20, 0x21, 0x22]

/-- A word with a defined opcode has the fields of a command, whose operands are legal or not. -/
theorem exists_hasFields {w : Word} (h : w.toNat % 2 ^ 8 ∈ definedOpcodes) : ∃ i, HasFields w i := by
  simp only [definedOpcodes, List.mem_cons, List.not_mem_nil, or_false] at h
  obtain op | op | op | op | op | op | op | op | op | op | op := h
  · exact ⟨.clrerr, op⟩
  · exact ⟨.srst, op⟩
  · exact ⟨.ccInit, op⟩
  · exact ⟨_, hasFields_ccQr_bitField op⟩
  · exact ⟨.ccDround, op⟩
  · exact ⟨.ccRounds, op⟩
  · exact ⟨.ccFeedfwd, op⟩
  · exact ⟨.ccBlock, op⟩
  · exact ⟨.pKey, op⟩
  · exact ⟨_, hasFields_pBlock_bitField op⟩
  · exact ⟨.pFinal, op⟩

/-! ### The checks of decode -/

theorem ushiftRight_eq_zero_iff (w : Word) (n : Nat) : w >>> n = 0 ↔ w.toNat / 2 ^ n = 0 := by
  rw [← BitVec.toNat_inj, BitVec.toNat_ushiftRight, Nat.shiftRight_eq_div_pow]
  rfl

/-- Decode checks the reserved bits and the operands of the command whose fields the word has. -/
theorem decode_of_hasFields {w : Word} {i : Instr} (h : HasFields w i) : decode w = decodeChecked w (reservedFrom i) i := by
  have op : (bitField w 0 8).val = (opcode i).toNat := by
    rw [bitField_val, Nat.pow_zero, Nat.div_one, h.mod_eq_opcode]
  cases i with
  | ccQr a b c d =>
    simp only [HasFields, encode_toNat, reservedFrom, opcode, operandBits, BitVec.toNat_ofNat] at h
    have ha : bitField w 8 4 = a := Fin.ext (by rw [bitField_val]; omega)
    have hb : bitField w 12 4 = b := Fin.ext (by rw [bitField_val]; omega)
    have hc : bitField w 16 4 = c := Fin.ext (by rw [bitField_val]; omega)
    have hd : bitField w 20 4 = d := Fin.ext (by rw [bitField_val]; omega)
    rw [decode, op, ha, hb, hc, hd]
    rfl
  | pBlock len =>
    simp only [HasFields, encode_toNat, reservedFrom, opcode, operandBits, BitVec.toNat_ofNat] at h
    have hlen : bitField w 8 5 = len := Fin.ext (by rw [bitField_val]; omega)
    rw [decode, op, hlen]
    rfl
  | _ => rw [decode, op]; rfl

theorem decode_of_reserved {w : Word} {i : Instr} (fields : HasFields w i) (h : w.toNat / 2 ^ reservedFrom i ≠ 0) :
    decode w = .error .rsvdBits := by
  rw [decode_of_hasFields fields]
  exact if_pos (mt (ushiftRight_eq_zero_iff w _).mp h)

theorem decode_of_illegal {w : Word} {i : Instr} {e : ErrCode} (fields : HasFields w i)
    (reserved : w.toNat / 2 ^ reservedFrom i = 0) (he : operandError i = some e) : decode w = .error e := by
  rw [decode_of_hasFields fields, decodeChecked, if_neg (not_not.mpr ((ushiftRight_eq_zero_iff w _).mpr reserved)), he]

theorem decode_of_legal {w : Word} {i : Instr} (fields : HasFields w i) (reserved : w.toNat / 2 ^ reservedFrom i = 0)
    (wf : i.wellFormed = true) : decode w = .ok i := by
  rw [decode_of_hasFields fields, decodeChecked, if_neg (not_not.mpr ((ushiftRight_eq_zero_iff w _).mpr reserved)),
    (Machine.operandError_eq_none_iff i).mpr wf]

theorem decode_of_undefined {w : Word} (h : w.toNat % 2 ^ 8 ∉ definedOpcodes) : decode w = .error .illegalOp := by
  have op : (bitField w 0 8).val ∉ definedOpcodes := by
    rwa [bitField_val, Nat.pow_zero, Nat.div_one]
  unfold decode
  split
  case h_12 => rfl
  all_goals
    rename_i value
    rw [value] at op
    exact absurd (by decide) op

/-! ### Encode and decode -/

theorem decode_encode {i : Instr} (wf : i.wellFormed = true) : decode (encode i) = .ok i :=
  decode_of_legal (encode_hasFields i) (Nat.div_eq_of_lt (encode_lt i)) wf

/-- A decoded word has the fields of the command, no reserved bit of it is set, and the command is legal: a word that fails
one of the checks does not decode. -/
theorem decode_eq_ok {w : Word} {i : Instr} (h : decode w = .ok i) :
    HasFields w i ∧ w.toNat / 2 ^ reservedFrom i = 0 ∧ i.wellFormed = true := by
  by_cases op : w.toNat % 2 ^ 8 ∈ definedOpcodes
  · obtain ⟨j, fields⟩ := exists_hasFields op
    by_cases reserved : w.toNat / 2 ^ reservedFrom j = 0
    · cases he : operandError j with
      | some e => simp [decode_of_illegal fields reserved he] at h
      | none =>
        have wf := (Machine.operandError_eq_none_iff j).mp he
        obtain rfl : j = i := by simpa [decode_of_legal fields reserved wf] using h
        exact ⟨fields, reserved, wf⟩
    · simp [decode_of_reserved fields reserved] at h
  · simp [decode_of_undefined op] at h

/-- The bytes of a word, put together again (20_memory.md R52; log 17). -/
theorem le32_bytes (w : Word) :
    le32 (BitVec.ofNat 8 w.toNat) (BitVec.ofNat 8 (w.toNat / 2 ^ 8)) (BitVec.ofNat 8 (w.toNat / 2 ^ 16))
      (BitVec.ofNat 8 (w.toNat / 2 ^ 24)) = w := by
  apply BitVec.eq_of_toNat_eq
  have := w.isLt
  simp only [le32, BitVec.toNat_ofNat]
  omega

theorem decodeTableWord_toNat (w : Word) : decodeTableWord 32 w.toNat = (decode w).toOption := by
  simp only [decodeTableWord, decodeBytes, Nat.mod_eq_of_lt w.isLt, le32_bytes]

/-- Settles O1: an encoding has its command's fields and no reserved bit, so a legal command passes every check. -/
theorem encodeThenDecodeIsIdentity : Obligations.EncodeThenDecodeIsIdentity := by
  intro i wf
  refine ⟨decode_encode wf, ?_⟩
  rw [decodeTableWord_toNat, decode_encode wf]
  rfl

/-- Settles O2: a decoded word is the command's fields with zeros above them, and that is the encoding. -/
theorem decodedWordIsItsEncoding : Obligations.DecodedWordIsItsEncoding := by
  intro w i h
  obtain ⟨fields, reserved, wf⟩ := decode_eq_ok h
  refine ⟨wf, BitVec.eq_of_toNat_eq ?_⟩
  calc
    (encode i).toNat = w.toNat % 2 ^ reservedFrom i := fields.symm
    _ = w.toNat := Nat.mod_eq_of_lt (Nat.lt_of_div_eq_zero (Nat.two_pow_pos _) reserved)

/-! ### The order of the checks -/

theorem operandError_ccQr {a b c d : Fin 16} (h : ¬ SlotsDistinct a b c d) :
    operandError (.ccQr a b c d) = some .qrAlias :=
  if_neg h

theorem operandError_pBlock {len : Fin 32} (h : ¬ LengthLegal len) : operandError (.pBlock len) = some .badLen :=
  if_neg h

/-- Settles O3: the clauses are the branches of decode, with the fields of CC_QR, P_BLOCK or the row's command. -/
theorem decodeChecksInOrder : Obligations.DecodeChecksInOrder := by
  intro w
  refine ⟨decode_of_undefined, fun op reserved => ?_, fun op reserved a b c d ha hb hc hd => ?_, fun op reserved => ?_,
    fun op reserved len hlen => ?_, fun row mem op => ?_⟩
  · exact decode_of_reserved (hasFields_ccQr_bitField op) reserved
  · have fields := hasFields_ccQr op ha hb hc hd
    exact ⟨fun same => decode_of_illegal fields reserved (operandError_ccQr same),
      fun distinct => decode_of_legal fields reserved (decide_eq_true distinct)⟩
  · exact decode_of_reserved (hasFields_pBlock_bitField op) reserved
  · have fields := hasFields_pBlock op hlen
    exact ⟨fun bad => decode_of_illegal fields reserved (operandError_pBlock (by omega)),
      fun legal => decode_of_legal fields reserved (decide_eq_true legal)⟩
  · have checked {i : Instr} (fields : HasFields w i) (format : reservedFrom i = 8) (wf : i.wellFormed = true) :
        (w.toNat / 2 ^ 8 ≠ 0 → decode w = .error .rsvdBits) ∧ (w.toNat / 2 ^ 8 = 0 → decode w = .ok i) :=
      format ▸ ⟨decode_of_reserved fields, fun reserved => decode_of_legal fields reserved wf⟩
    simp only [List.mem_cons, List.not_mem_nil, or_false] at mem
    obtain rfl | rfl | rfl | rfl | rfl | rfl | rfl | rfl | rfl := mem
    all_goals exact checked op rfl rfl

/-- Settles O5: the words are literals, so decode computes. -/
theorem specWordsDecodeAsWritten : Obligations.SpecWordsDecodeAsWritten :=
  ⟨rfl, rfl, rfl, rfl, rfl, rfl, rfl, rfl, rfl, rfl, rfl⟩

/-! ### The rows of the opcode map -/

/-- A row's mask covers OP and the reserved bits of the row's format. -/
theorem tableMask_eq (i : Instr) : tableMask i = (BitVec.allOnes 32 <<< reservedFrom i) ||| 0xFF := by
  cases i <;> simp only [tableMask, reservedFrom] <;> decide

theorem and_shiftLeft_allOnes_of_lt {w : Word} {n : Nat} (h : w.toNat < 2 ^ n) : w &&& (BitVec.allOnes 32 <<< n) = 0 := by
  ext k hk
  by_cases le : k < n
  · simp [le]
  · have : w.toNat.testBit k = false := Nat.testBit_lt_two_pow (h.trans_le (Nat.pow_le_pow_right (by decide) (by omega)))
    simp [BitVec.getElem_eq_testBit_toNat, this]

/-- Under its row's mask the encoding of a command is OP alone. -/
theorem encode_and_tableMask (i : Instr) : encode i &&& tableMask i = tableMatch i := by
  have op : encode i &&& 0xFF = tableMatch i := by
    rw [tableMatch, ← opcode_field]
    apply BitVec.eq_of_toNat_eq
    have low : (encode i).toNat &&& (0xFF : Word).toNat = (encode i).toNat % 2 ^ 8 := Nat.and_two_pow_sub_one_eq_mod _ 8
    simp only [BitVec.toNat_and, low, BitVec.toNat_setWidth, BitVec.extractLsb'_toNat, Nat.shiftRight_zero]
    omega
  rw [tableMask_eq, BitVec.and_or_distrib_left, and_shiftLeft_allOnes_of_lt (encode_lt i), op]
  exact BitVec.zero_or

/-- Every mask covers OP, so a word that selects a row has the row's opcode. -/
theorem setWidth_of_selects {w : Word} {i : Instr} (h : w &&& tableMask i = tableMatch i) : w.setWidth 8 = opcode i := by
  have mask : (tableMask i).setWidth 8 = BitVec.allOnes 8 := by cases i <;> simp only [tableMask] <;> decide
  have value : (tableMatch i).setWidth 8 = opcode i := by cases i <;> rfl
  calc
    w.setWidth 8 = w.setWidth 8 &&& (tableMask i).setWidth 8 := by rw [mask, BitVec.and_allOnes]
    _ = (w &&& tableMask i).setWidth 8 := BitVec.setWidth_and.symm
    _ = opcode i := by rw [h, value]

/-- Settles O4: a decoded word is an encoding, which selects its row; and a selected row's opcode is the word's low byte. -/
theorem decodedWordSelectsItsRowAlone : Obligations.DecodedWordSelectsItsRowAlone := by
  refine ⟨fun w i h => ?_, fun w i j hi hj => ?_⟩
  · rw [← (decodedWordIsItsEncoding w i h).2, encode_and_tableMask]
  · rw [← setWidth_of_selects hi, setWidth_of_selects hj]

end Sys2Proof

namespace Sys2Proof.Machine

/-! ### Operands that no word decodes to -/

/-- The operand check of a CE command comes first, whoever moves and whether or not CE is busy. -/
theorem exec_ce_illegal {c : CECmd} {e : ErrCode} (h : operandError (ceInstr c) = some e) (s : State) :
    exec (ceInstr c) s = .next (reject e s) := by
  rw [exec_ceInstr, ceCommand, h]

/-- The operand check of a PE command comes first, whoever moves and whether or not PE is busy. -/
theorem exec_pe_illegal {c : PECmd} {e : ErrCode} (h : operandError (peInstr c) = some e) (s : State) :
    exec (peInstr c) s = .next (reject e s) := by
  rw [exec_peInstr, peCommand, h]

/-- Settles O12: both commands are rejected by their operand check, with QR_ALIAS and BAD_LEN. -/
theorem illegalOperandsAreRejected : Obligations.IllegalOperandsAreRejected :=
  ⟨fun a b c d s h => exec_ce_illegal (c := .qr a b c d) (operandError_ccQr h) s,
    fun len s h => exec_pe_illegal (c := .block len) (operandError_pBlock h) s⟩

/-! ### `bset` -/

theorem step_bset {s : State} {k target : Nat} {r : Reg} {bit : Fin 32} (turn : mover s = .host k)
    (next : nextOp k s = some (.bset r bit target)) : step s = .next (tick (branchIfSet k r bit target s)) := by
  simp only [step, turn, moveOf, hostMove, next, onNext_next]

theorem nextOp_of_host {s : State} {k : Nat} {h : HostState} (at_k : s.hosts[k]? = some h) :
    nextOp k s = h.program[h.pos]? := by
  rw [nextOp, at_k]

theorem updateHost_of_host {s : State} {k : Nat} {h : HostState} (at_k : s.hosts[k]? = some h)
    (f : HostState → HostState) : updateHost k f s = { s with hosts := s.hosts.set k (f h) } := by
  rw [updateHost, List.modify_eq_set_getElem?, at_k]
  rfl

/-- The state after a `bset`: the read, and the HOST at the label or at its next operation. -/
theorem branchIfSet_of_host {s : State} {k : Nat} {h : HostState} (at_k : s.hosts[k]? = some h) (r : Reg) (bit : Fin 32)
    (target : Nat) :
    branchIfSet k r bit target s = { (readReg r s).2 with
      hosts := s.hosts.set k { h with pos := if (readReg r s).1.getLsbD bit.val then target else h.pos + 1 } } := by
  have keep : (readReg r s).2.hosts = s.hosts := by rw [readReg_state]
  have update := updateHost_of_host (s := (readReg r s).2) (keep.symm ▸ at_k)
  rw [branchIfSet, update, update, keep]
  split <;> rfl

/-- Settles O49: the step is the read and the jump, with the schedule moved on. -/
theorem bsetJumpsOnTheBitItReads : Obligations.BsetJumpsOnTheBitItReads := by
  intro s k target r bit h turn at_k at_pos
  rw [step_bset turn ((nextOp_of_host at_k).trans at_pos), branchIfSet_of_host at_k, readReg_value, readReg_state]
  cases readsDraw r s <;> rfl

end Sys2Proof.Machine
end

section
/-!
PROOFS. The quarter-round and CC_QR (40_quarter_round.md R100 to R102): rotations as permutations of the bits, the inverse of
the quarter-round, and the four slots that a group reads and writes.
-/

namespace Sys2Proof

/-! ### Rotations -/

theorem rotl_eq_rotateLeft {n : Nat} (h : n < 32) (w : Word) : rotl w n = w.rotateLeft n := by
  rw [BitVec.rotateLeft_def, Nat.mod_eq_of_lt h]
  rfl

/-- Bit i of a rotated word comes from i − n, counted round the word. -/
theorem getElem_rotl {n i : Nat} (h : n < 32) (hi : i < 32) (w : Word) :
    (rotl w n)[i] = if low : i < n then w[32 - n + i] else w[i - n] := by
  simp only [rotl_eq_rotateLeft h, BitVec.getElem_rotateLeft, Nat.mod_eq_of_lt h]

/-- Two rotations that go once round the word leave every bit in its place. -/
theorem rotl_rotl_of_add_eq {m n : Nat} (hm : m < 32) (hn : n < 32) (round : m + n = 32) (w : Word) :
    rotl (rotl w n) m = w := by
  ext i hi
  by_cases low : i < m
  · have source : 32 - m + i - n = i := by omega
    simp [getElem_rotl, hm, hn, low, source, show ¬ 32 - m + i < n by omega]
  · have source : 32 - n + (i - m) = i := by omega
    simp [getElem_rotl, hm, hn, low, source, show i - m < n by omega]

@[simp] theorem rotr_rotl {n : Nat} (pos : 0 < n) (lt : n < 32) (w : Word) : rotr (rotl w n) n = w :=
  rotl_rotl_of_add_eq (by omega) lt (by omega) w

@[simp] theorem rotl_rotr {n : Nat} (pos : 0 < n) (lt : n < 32) (w : Word) : rotl (rotr w n) n = w :=
  rotl_rotl_of_add_eq lt (by omega) (by omega) w

end Sys2Proof

namespace Sys2Proof.Machine

/-! ### The quarter-round -/

/-- Settles O18: the model's lines are the rule's, with the library's rotation. -/
theorem quarterRoundRunsItsFourSteps : Obligations.QuarterRoundRunsItsFourSteps := by
  rintro a b c d _ _ _ _ _ _ _ _ rfl rfl rfl rfl rfl rfl rfl rfl
  simp only [quarterRound, rotl_eq_rotateLeft, Nat.reduceLT]

/-- A line `y = rotl(y ⊕ x, n)` is undone by `rotr(y, n) ⊕ x`, and a line `x = x ⊞ y` by `x ⊟ y`, since each line of QR reads
the other word unchanged (40_quarter_round.md R102). -/
theorem quarterRoundInv_quarterRound (q : Word × Word × Word × Word) : quarterRoundInv (quarterRound q) = q := by
  obtain ⟨a, b, c, d⟩ := q
  simp only [quarterRound, quarterRoundInv, rotr_rotl, Nat.reduceLT, xor_cancel_right, BitVec.add_sub_cancel]

theorem quarterRound_quarterRoundInv (q : Word × Word × Word × Word) : quarterRound (quarterRoundInv q) = q := by
  obtain ⟨a, b, c, d⟩ := q
  simp only [quarterRound, quarterRoundInv, rotl_rotr, Nat.reduceLT, xor_cancel_right, BitVec.sub_add_cancel]

/-- Settles O19: each line is undone in reverse order, on either side. -/
theorem quarterRoundHasItsInverse : Obligations.QuarterRoundHasItsInverse :=
  fun q => ⟨quarterRoundInv_quarterRound q, quarterRound_quarterRoundInv q⟩

/-! ### The four slots of a group -/

/-- The indices of the group are pairwise distinct (30_encoding.md R81). -/
abbrev Group.Distinct (g : Group) : Prop :=
  SlotsDistinct g.a g.b g.c g.d

theorem readSlots_writeSlots {g : Group} (distinct : g.Distinct) (q : Word × Word × Word × Word) (x : Vector Word 16) :
    readSlots g (writeSlots g q x) = q := by
  obtain ⟨ab, ac, ad, bc, bd, cd⟩ := distinct
  simp [readSlots, writeSlots, Fin.val_inj, ab.symm, ac.symm, ad.symm, bc.symm, bd.symm, cd.symm]

theorem getElem_writeSlots_of_ne {g : Group} {i : Fin 16} (ha : i ≠ g.a) (hb : i ≠ g.b) (hc : i ≠ g.c) (hd : i ≠ g.d)
    (q : Word × Word × Word × Word) (x : Vector Word 16) : (writeSlots g q x)[i] = x[i] := by
  rw [writeSlots, getElem_set_of_ne _ _ hd.symm, getElem_set_of_ne _ _ hc.symm, getElem_set_of_ne _ _ hb.symm,
    getElem_set_of_ne _ _ ha.symm]

theorem readSlots_applyGroup {g : Group} (distinct : g.Distinct) (x : Vector Word 16) :
    readSlots g (applyGroup g x) = quarterRound (readSlots g x) :=
  readSlots_writeSlots distinct _ x

theorem getElem_applyGroup_of_ne {g : Group} {i : Fin 16} (ha : i ≠ g.a) (hb : i ≠ g.b) (hc : i ≠ g.c) (hd : i ≠ g.d)
    (x : Vector Word 16) : (applyGroup g x)[i] = x[i] :=
  getElem_writeSlots_of_ne ha hb hc hd _ x

/-- Settles O20: CC_QR completes with its group applied to X, and a group writes its four slots only. -/
theorem ccQrMixesItsFourSlots : Obligations.CcQrMixesItsFourSlots := by
  intro a b c d s distinct turn
  have legal : (ceInstr (.qr a b c d)).wellFormed = true := decide_eq_true distinct
  exact ⟨_, exec_ce_complete legal turn, readSlots_applyGroup (g := ⟨a, b, c, d⟩) distinct s.x,
    fun i ha hb hc hd => getElem_applyGroup_of_ne (g := ⟨a, b, c, d⟩) ha hb hc hd s.x, rfl⟩

end Sys2Proof.Machine
end

section
/-!
PROOFS. The ChaCha20 block transform (41_chacha_block.md R120 to R129): the rules of its five commands, the sequencer's
schedule, the inverse of the round function, and the order of the groups inside a round.
-/

namespace Sys2Proof.Machine

/-! ### Groups in sequence -/

theorem applyGroups_append (gs hs : List Group) (x : Vector Word 16) :
    applyGroups (gs ++ hs) x = applyGroups hs (applyGroups gs x) :=
  List.foldl_append

/-- Settles O22: the double round is the groups of COL and then those of DIA. -/
theorem ccDroundRunsColumnsThenDiagonals : Obligations.CcDroundRunsColumnsThenDiagonals := by
  intro s turn
  have completes : exec .ccDround s = .next (retireCE (effectCcDround s)) := exec_ce_complete (c := .dround) rfl turn
  rw [completes, effectCcDround, doubleRound, applyGroups_append]
  rfl

/-! ### The initial state -/

theorem toList_eq_ofFn {n : Nat} (ws : Vector Word n) : ws.toList = List.ofFn fun i : Fin n => ws[i] :=
  List.ext_getElem (by simp) (by simp)

/-- The rows of the state one after another: SIGMA, the key, the counter, the nonce. -/
theorem initialState_toList (ckey : Vector Word 8) (cctr : Word) (cnonce : Vector Word 3) :
    (initialState ckey cctr cnonce).toList = sigma.toList ++ ckey.toList ++ [cctr] ++ cnonce.toList := by
  rw [toList_eq_ofFn ckey, toList_eq_ofFn cnonce]
  rfl

/-- Settles O21: the rule writes the initial state to X and to SAVED. -/
theorem ccInitBuildsTheInitialState : Obligations.CcInitBuildsTheInitialState :=
  fun s turn => ⟨_, exec_ce_complete (c := .init) rfl turn, initialState_toList s.ckey s.cctr s.cnonce, rfl, rfl⟩

/-! ### Ten double rounds -/

theorem doubleRounds_eq_iterate (n : Nat) : doubleRounds n = doubleRound^[n] := by
  funext x
  induction n generalizing x with
  | zero => rfl
  | succ n ih => exact ih (doubleRound x)

/-- Eight entries of the schedule after the first `8·n` are one double round more (41_chacha_block.md R124). -/
theorem foldl_schedule (n : Nat) (x : Vector Word 16) :
    (List.range (8 * n)).foldl (fun y k => applyGroup (scheduleEntry k) y) x = doubleRound^[n] x := by
  induction n with
  | zero => rfl
  | succ n ih =>
    rw [Nat.mul_succ, List.range_add, List.foldl_append, ih, List.foldl_map, Function.iterate_succ_apply', doubleRound_eq]
    simp only [scheduleEntry_mod]
    rfl

/-- Settles O23: the sequencer ends in the iterated double round, and so does the schedule read in order. -/
theorem ccRoundsRunsTenDoubleRounds : Obligations.CcRoundsRunsTenDoubleRounds := by
  intro s turn
  have completes : exec .ccRounds s = .next (retireCE (effectCcRounds s)) := exec_ce_complete (c := .rounds) rfl turn
  rw [effectCcRounds_eq, doubleRounds_eq_iterate] at completes
  exact ⟨_, completes, rfl, (foldl_schedule 10 s.x).symm, rfl⟩

/-! ### Feed-forward and the whole block -/

@[simp] theorem getElem_feedForward (x saved : Vector Word 16) (i : Fin 16) : (feedForward x saved)[i] = x[i] + saved[i] :=
  Vector.getElem_zipWith i.isLt

/-- Settles O24: the rule adds the two vectors word by word. -/
theorem ccFeedfwdAddsSavedWordByWord : Obligations.CcFeedfwdAddsSavedWordByWord :=
  fun s turn => ⟨_, exec_ce_complete (c := .feedfwd) rfl turn, getElem_feedForward s.x s.saved, rfl⟩

/-- Settles O25: the rule in one equation, and feed-forward word by word. -/
theorem ccBlockComputesTheKeystreamBlock : Obligations.CcBlockComputesTheKeystreamBlock := by
  intro s turn
  have completes : exec .ccBlock s = .next (retireCE (effectCcBlock s)) := exec_ce_complete (c := .block) rfl turn
  rw [effectCcBlock_eq, doubleRounds_eq_iterate] at completes
  exact ⟨_, completes, rfl, getElem_feedForward _ _, rfl⟩

theorem effectCcDround_iterate (n : Nat) (s : State) : effectCcDround^[n] s = { s with x := doubleRound^[n] s.x } := by
  induction n generalizing s with
  | zero => rfl
  | succ n ih => simp only [Function.iterate_succ_apply, ih, effectCcDround]

theorem mover_of_sched {s : State} {a : Agent} {rest : List Agent} (h : s.sched = a :: rest) : mover s = a := by
  rw [mover, h]

/-- Settles O26: `exec` leaves the schedule, so each command is CE's move, and all the ways end in one state. -/
theorem blockEqualsInitRoundsFeedforward : Obligations.BlockEqualsInitRoundsFeedforward := by
  intro s rest h
  have frame (t : State) (c : CECmd) : (retireCE (ceEffect c t)).sched = t.sched := by rw [ceEffect_frame]; rfl
  have turn (t : State) (same : t.sched = s.sched) : mover t = .ce := mover_of_sched (same.trans h)
  refine ⟨_, _, _, exec_ce_complete (c := .init) rfl (turn _ rfl),
    exec_ce_complete (c := .rounds) rfl (turn _ (frame _ _)),
    exec_ce_complete (c := .feedfwd) rfl (turn _ ((frame _ _).trans (frame _ _))), ?_, ?_⟩
  · have completes : exec .ccBlock s = .next (retireCE (effectCcBlock s)) := exec_ce_complete (c := .block) rfl (turn _ rfl)
    simp only [completes, ceEffect, effectCcBlock_eq, effectCcRounds_eq]
    rfl
  · simp only [ceEffect, effectCcRounds_eq, effectCcDround_iterate, doubleRounds_eq_iterate]
    rfl

/-! ### The inverse of the rounds -/

/-- The four slots of a group, changed by `f`. -/
def mixSlots (f : Word × Word × Word × Word → Word × Word × Word × Word) (g : Group) (x : Vector Word 16) : Vector Word 16 :=
  writeSlots g (f (readSlots g x)) x

theorem applyGroup_eq_mixSlots (g : Group) : applyGroup g = mixSlots quarterRound g := rfl

/-- The indices a group reads and writes. -/
def Group.slots (g : Group) : List (Fin 16) :=
  [g.a, g.b, g.c, g.d]

/-- A write of the four slots leaves nothing there of what they held. -/
theorem getElem_writeSlots_congr {g : Group} {i : Fin 16} (h : i ∈ g.slots) (q : Word × Word × Word × Word)
    (x y : Vector Word 16) : (writeSlots g q x)[i] = (writeSlots g q y)[i] := by
  simp only [Group.slots, List.mem_cons, List.not_mem_nil, or_false] at h
  simp only [writeSlots, Fin.getElem_fin, Vector.getElem_set]
  obtain rfl | rfl | rfl | rfl := h <;> simp only [if_true]

theorem getElem_writeSlots_of_not_mem {g : Group} {i : Fin 16} (h : i ∉ g.slots) (q : Word × Word × Word × Word)
    (x : Vector Word 16) : (writeSlots g q x)[i] = x[i] := by
  simp only [Group.slots, List.mem_cons, List.not_mem_nil, or_false, not_or] at h
  obtain ⟨ha, hb, hc, hd⟩ := h
  exact getElem_writeSlots_of_ne ha hb hc hd q x

theorem ext_slots {x y : Vector Word 16} (h : ∀ i : Fin 16, x[i] = y[i]) : x = y :=
  Vector.ext fun i hi => h ⟨i, hi⟩

theorem writeSlots_writeSlots (g : Group) (q r : Word × Word × Word × Word) (x : Vector Word 16) :
    writeSlots g q (writeSlots g r x) = writeSlots g q x := by
  refine ext_slots fun i => ?_
  by_cases h : i ∈ g.slots
  · exact getElem_writeSlots_congr h q _ x
  · simp only [getElem_writeSlots_of_not_mem h]

theorem writeSlots_readSlots (g : Group) (x : Vector Word 16) : writeSlots g (readSlots g x) x = x := by
  simp [writeSlots, readSlots]

theorem mixSlots_leftInverse {f f' : Word × Word × Word × Word → Word × Word × Word × Word}
    (inverse : Function.LeftInverse f' f) {g : Group} (distinct : g.Distinct) :
    Function.LeftInverse (mixSlots f' g) (mixSlots f g) := by
  intro x
  rw [mixSlots, mixSlots, readSlots_writeSlots distinct, inverse, writeSlots_writeSlots, writeSlots_readSlots]

/-- A group is undone by `QR⁻¹` on the same four slots (40_quarter_round.md R102). -/
theorem applyGroup_bijective {g : Group} (distinct : g.Distinct) : Function.Bijective (applyGroup g) := by
  rw [applyGroup_eq_mixSlots, Function.bijective_iff_has_inverse]
  exact ⟨mixSlots quarterRoundInv g, mixSlots_leftInverse quarterRoundInv_quarterRound distinct,
    mixSlots_leftInverse quarterRound_quarterRoundInv distinct⟩

theorem applyGroups_bijective {gs : List Group} (distinct : ∀ g ∈ gs, g.Distinct) : Function.Bijective (applyGroups gs) := by
  induction gs with
  | nil => exact Function.bijective_id
  | cons g gs ih =>
    obtain ⟨head, tail⟩ := List.forall_mem_cons.mp distinct
    exact (ih tail).comp (applyGroup_bijective head)

/-- Settles O27: every group of a double round is legal, and compositions and iterates of bijections are bijections. -/
theorem roundsAreInvertible : Obligations.RoundsAreInvertible := by
  intro n
  have legal : ∀ g ∈ columnGroups ++ diagonalGroups, g.Distinct := by decide
  rw [doubleRounds_eq_iterate]
  exact (applyGroups_bijective legal).iterate n

/-! ### The order of the groups inside a round -/

/-- No slot of the one group is a slot of the other. -/
abbrev Group.Disjoint (g h : Group) : Prop :=
  ∀ i ∈ g.slots, i ∉ h.slots

theorem Group.Disjoint.symm {g h : Group} (disjoint : g.Disjoint h) : h.Disjoint g :=
  fun i hi hi' => disjoint i hi' hi

/-- A group reads no slot that a disjoint group writes. -/
theorem readSlots_writeSlots_of_disjoint {g h : Group} (disjoint : g.Disjoint h)
    (q : Word × Word × Word × Word) (x : Vector Word 16) : readSlots g (writeSlots h q x) = readSlots g x := by
  have keep (i) (hi : i ∈ g.slots) : (writeSlots h q x)[i] = x[i] := getElem_writeSlots_of_not_mem (disjoint i hi) q x
  simp only [Group.slots, List.forall_mem_cons] at keep
  obtain ⟨ha, hb, hc, hd, -⟩ := keep
  rw [readSlots, readSlots, ha, hb, hc, hd]

theorem writeSlots_comm_of_disjoint {g h : Group} (disjoint : g.Disjoint h) (q r : Word × Word × Word × Word)
    (x : Vector Word 16) : writeSlots g q (writeSlots h r x) = writeSlots h r (writeSlots g q x) := by
  refine ext_slots fun i => ?_
  by_cases hg : i ∈ g.slots
  · rw [getElem_writeSlots_of_not_mem (disjoint i hg), getElem_writeSlots_congr hg q _ x]
  · rw [getElem_writeSlots_of_not_mem hg]
    by_cases hh : i ∈ h.slots
    · exact getElem_writeSlots_congr hh r _ _
    · simp only [getElem_writeSlots_of_not_mem hg, getElem_writeSlots_of_not_mem hh]

theorem applyGroup_comm_of_disjoint {g h : Group} (disjoint : g.Disjoint h) (x : Vector Word 16) :
    applyGroup g (applyGroup h x) = applyGroup h (applyGroup g x) := by
  simp only [applyGroup, readSlots_writeSlots_of_disjoint disjoint, readSlots_writeSlots_of_disjoint disjoint.symm]
  exact writeSlots_comm_of_disjoint disjoint _ _ x

theorem applyGroups_perm {gs hs : List Group} (perm : gs.Perm hs)
    (disjoint : ∀ g ∈ hs, ∀ h ∈ hs, g ≠ h → g.Disjoint h) (x : Vector Word 16) :
    applyGroups gs x = applyGroups hs x := by
  have commute : ∀ g ∈ gs, ∀ h ∈ gs, ∀ y, applyGroup h (applyGroup g y) = applyGroup g (applyGroup h y) := by
    intro g hg h hh y
    obtain rfl | ne := eq_or_ne g h
    · rfl
    · exact applyGroup_comm_of_disjoint (disjoint h (perm.mem_iff.mp hh) g (perm.mem_iff.mp hg) ne.symm) y
  exact perm.foldl_eq' commute x

/-- Settles O28: the four groups of a round are pairwise disjoint, so their applications commute. -/
theorem groupOrderInsideARoundIsIrrelevant : Obligations.GroupOrderInsideARoundIsIrrelevant :=
  fun _ x => ⟨fun perm => applyGroups_perm perm (by decide) x, fun perm => applyGroups_perm perm (by decide) x⟩

end Sys2Proof.Machine
end

section
/-!
PROOFS. The key load of PE (42_poly1305_key.md R150 to R152): the words of a little-endian number, the words of the two key
halves and of a clamped value, and the bounds that the clamp sets.
-/

namespace Sys2Proof

/-! ### The words of a little-endian number -/

theorem lew_lt (ws : List Word) : lew ws < 2 ^ (32 * ws.length) := by
  induction ws with
  | nil => exact Nat.one_pos
  | cons w ws ih =>
    have := w.isLt
    rw [lew, List.length_cons, Nat.mul_succ, Nat.pow_add]
    omega

theorem lew_div_mod {ws : List Word} {i : Nat} (hi : i < ws.length) : lew ws / 2 ^ (32 * i) % 2 ^ 32 = ws[i].toNat := by
  induction ws generalizing i with
  | nil => cases hi
  | cons w ws ih =>
    cases i with
    | zero =>
      have := w.isLt
      simp only [lew, List.getElem_cons_zero]
      omega
    | succ i =>
      have above : (w.toNat + 2 ^ 32 * lew ws) / 2 ^ 32 = lew ws := by
        have := w.isLt
        omega
      rw [lew, Nat.mul_succ, Nat.add_comm (32 * i), Nat.pow_add, ← Nat.div_div_eq_div_mul, above, List.getElem_cons_succ]
      exact ih (Nat.lt_of_succ_lt_succ hi)

end Sys2Proof

namespace Sys2Proof.Machine

theorem wordAt_of_toNat_eq_lew {n : Nat} {v : BitVec n} {ws : List Word} (number : v.toNat = lew ws) {i : Nat}
    (hi : i < ws.length) : wordAt v i = ws[i] :=
  BitVec.eq_of_toNat_eq (by rw [wordAt_toNat, number, lew_div_mod hi])

/-! ### The two key halves -/

theorem keyLow_toNat (pkey : Vector Word 8) : (keyLow pkey).toNat = lew [pkey[0], pkey[1], pkey[2], pkey[3]] :=
  Nat.mod_eq_of_lt (lew_lt _)

theorem keyHigh_toNat (pkey : Vector Word 8) : (keyHigh pkey).toNat = lew [pkey[4], pkey[5], pkey[6], pkey[7]] :=
  Nat.mod_eq_of_lt (lew_lt _)

theorem wordAt_keyLow (pkey : Vector Word 8) (i : Fin 4) :
    wordAt (keyLow pkey) i = [pkey[0], pkey[1], pkey[2], pkey[3]][i.val] :=
  wordAt_of_toNat_eq_lew (keyLow_toNat pkey) i.isLt

theorem wordAt_keyHigh (pkey : Vector Word 8) (i : Fin 4) :
    wordAt (keyHigh pkey) i = [pkey[4], pkey[5], pkey[6], pkey[7]][i.val] :=
  wordAt_of_toNat_eq_lew (keyHigh_toNat pkey) i.isLt

/-! ### The clamp -/

theorem wordAt_clamp (v : BitVec 128) (i : Nat) : wordAt (clamp v) i = wordAt v i &&& wordAt clampMask i :=
  BitVec.extractLsb'_and

/-- A word of a clamped key half is the word of the key under the word of the mask. -/
theorem wordAt_clamp_keyLow (pkey : Vector Word 8) (i : Fin 4) :
    wordAt (clamp (keyLow pkey)) i = [pkey[0], pkey[1], pkey[2], pkey[3]][i.val] &&& wordAt clampMask i := by
  rw [wordAt_clamp, wordAt_keyLow pkey i]

/-- Settles O29: PE's own move ends in the rule of P_KEY; the masks of the statement are the words of CLAMP_MASK. -/
theorem pKeyClampsRAndLoadsS : Obligations.PKeyClampsRAndLoadsS := by
  intro s turn
  have low := wordAt_clamp_keyLow s.pkey
  have high := wordAt_keyHigh s.pkey
  exact ⟨_, exec_pe_complete (c := .key) rfl turn, low 0, low 1, low 2, low 3, high 0, high 1, high 2, high 3, rfl⟩

theorem toNat_and_lt_of_right {n m : Nat} (u : BitVec n) {v : BitVec n} (h : v.toNat < m) : (u &&& v).toNat < m := by
  rw [BitVec.toNat_and]
  exact Nat.and_le_right.trans_lt h

theorem clamp_toNat_lt (v : BitVec 128) : (clamp v).toNat < 2 ^ 124 :=
  toNat_and_lt_of_right v (by decide)

theorem wordAt_clampMask_toNat_lt : ∀ i : Fin 4, (wordAt clampMask i).toNat < 2 ^ 28 := by decide

theorem wordAt_clamp_toNat_lt (v : BitVec 128) (i : Fin 4) : (wordAt (clamp v) i).toNat < 2 ^ 28 := by
  rw [wordAt_clamp]
  exact toNat_and_lt_of_right _ (wordAt_clampMask_toNat_lt i)

theorem clamp_clamp (v : BitVec 128) : clamp (clamp v) = clamp v := by
  simp only [clamp, BitVec.and_assoc, BitVec.and_self]

/-- Settles O34: a masked number is at most its mask, as a whole and word by word, and masking is idempotent. -/
theorem clampBoundsRAndIsIdempotent : Obligations.ClampBoundsRAndIsIdempotent :=
  fun v => ⟨clamp_toNat_lt v, wordAt_clamp_toNat_lt v, clamp_clamp v⟩

end Sys2Proof.Machine
end

section
/-!
PROOFS. The multiplier of PE (43_poly1305_multiplier.md R160 to R163): the chunk value as a number, one P_BLOCK as one step
of the fold over the chunks, and the bounds of its intermediate values.
-/

namespace Sys2Proof.Machine

/-! ### The chunk value -/

theorem chunkByte_toNat (msg : Vector Word 4) (j : Nat) :
    (chunkByte msg j).toNat = (msg.toList.getD (j / 4) 0).toNat / 2 ^ (8 * (j % 4)) % 2 ^ 8 :=
  bytes32_getD_toNat _ (Nat.mod_lt j (by decide))

theorem chunkSum_eq_sum (msg : Vector Word 4) (n : Nat) :
    chunkSum msg n = ((List.range n).map fun j => 2 ^ (8 * j) * (chunkByte msg j).toNat).sum := by
  induction n with
  | zero => rfl
  | succ n ih => rw [chunkSum, ih, List.range_succ, List.map_append, List.sum_append, List.map_singleton, List.sum_singleton]

/-- `n` bytes stay below the marker's place. -/
theorem chunkSum_lt (msg : Vector Word 4) (n : Nat) : chunkSum msg n < 2 ^ (8 * n) := by
  induction n with
  | zero => exact Nat.one_pos
  | succ n ih =>
    have byte : (chunkByte msg n).toNat + 1 ≤ 2 ^ 8 := (chunkByte msg n).isLt
    calc
      chunkSum msg n + 2 ^ (8 * n) * (chunkByte msg n).toNat
        < 2 ^ (8 * n) + 2 ^ (8 * n) * (chunkByte msg n).toNat := Nat.add_lt_add_right ih _
      _ = 2 ^ (8 * n) * ((chunkByte msg n).toNat + 1) := by ring
      _ ≤ 2 ^ (8 * n) * 2 ^ 8 := Nat.mul_le_mul_left _ byte
      _ = 2 ^ (8 * (n + 1)) := (Nat.pow_add ..).symm

theorem marker_le_chunkVal (msg : Vector Word 4) (n : Nat) : 2 ^ (8 * n) ≤ chunkVal msg n :=
  Nat.le_add_left ..

theorem chunkVal_lt (msg : Vector Word 4) (n : Nat) : chunkVal msg n < 2 ^ (8 * n + 1) := by
  have := chunkSum_lt msg n
  rw [chunkVal, Nat.pow_succ]
  omega

/-- Settles O35: the recursive sum is the sum over the range, each byte is its word's, and the bytes stay below the marker. -/
theorem chunkValueIsBytesBelowTheMarker : Obligations.ChunkValueIsBytesBelowTheMarker := by
  intro msg len _
  refine ⟨?_, marker_le_chunkVal msg _, chunkVal_lt msg _⟩
  simp only [chunkVal, chunkSum_eq_sum, chunkByte_toNat]

/-- The chunk value reads the bytes below the length only. -/
theorem chunkVal_congr {msg msg' : Vector Word 4} {n : Nat} (same : ∀ j, j < n → chunkByte msg j = chunkByte msg' j) :
    chunkVal msg n = chunkVal msg' n := by
  have bytes : ((List.range n).map fun j => 2 ^ (8 * j) * (chunkByte msg j).toNat) =
      (List.range n).map fun j => 2 ^ (8 * j) * (chunkByte msg' j).toNat :=
    List.map_congr_left fun j hj => by rw [same j (List.mem_range.1 hj)]
  rw [chunkVal, chunkVal, chunkSum_eq_sum, chunkSum_eq_sum, bytes]

/-! ### One P_BLOCK -/

theorem exec_pBlock_complete {len : Fin 32} {s : State} (legal : LengthLegal len) (turn : mover s = .pe) :
    exec (.pBlock len) s = .next (retirePE (effectPBlock len.val s)) :=
  exec_pe_complete (c := .block len) (decide_eq_true legal) turn

/-- A remainder mod P fits the 130 bits of ACC, so none is lost. -/
theorem effectPBlock_acc_toNat (n : Nat) (s : State) :
    (effectPBlock n s).acc.toNat = ((s.acc.toNat + chunkVal s.msg n) * s.regR.toNat) % polyP := by
  have fits : polyP ≤ 2 ^ 130 := Nat.sub_le ..
  rw [effectPBlock_acc, BitVec.toNat_ofNat, Nat.mod_eq_of_lt ((mulReduce_lt _ _).trans_le fits), mulReduce, blockSum]

/-- Settles O30: PE's own move ends in the rule of P_BLOCK, whose remainder is exact. -/
theorem pBlockFoldsOneChunk : Obligations.PBlockFoldsOneChunk :=
  fun len s legal turn => ⟨_, exec_pBlock_complete legal turn, effectPBlock_acc_toNat len.val s, rfl⟩

/-- The rule of P_BLOCK looks at MSG through the chunk value only. -/
theorem effectPBlock_with_msg {n : Nat} {s : State} {msg : Vector Word 4} (same : chunkVal msg n = chunkVal s.msg n) :
    effectPBlock n { s with msg := msg } = { effectPBlock n s with msg := msg } := by
  simp only [effectPBlock, same]

/-- Settles O36: the two chunk values are equal, and neither whose turn it is nor the retirement of PE depends on MSG. -/
theorem bytesBeyondTheLengthAreIgnored : Obligations.BytesBeyondTheLengthAreIgnored := by
  intro len s msg legal turn same
  refine ⟨_, exec_pBlock_complete legal turn, ?_⟩
  rw [exec_pBlock_complete (s := { s with msg := msg }) legal turn, effectPBlock_with_msg (chunkVal_congr same)]
  rfl

/-! ### The bounds of the intermediate values -/

/-- ACC has 130 bits, and a chunk value with its marker at most 129. -/
theorem blockSum_lt (acc : BitVec 130) (msg : Vector Word 4) {len : Fin 32} (legal : LengthLegal len) :
    blockSum acc (chunkVal msg len.val) < 2 ^ 131 := by
  obtain ⟨-, le_sixteen⟩ := legal
  have chunk : chunkVal msg len.val < 2 ^ 129 :=
    (chunkVal_lt msg len.val).trans_le (Nat.pow_le_pow_right (by decide) (by omega))
  have := acc.isLt
  rw [blockSum]
  omega

theorem clamp_eq_self_of_clamped {v : BitVec 128} (clamped : v &&& ~~~clampMask = 0) : clamp v = v := by
  calc
    v &&& clampMask = (v &&& clampMask) ||| (v &&& ~~~clampMask) := by rw [clamped]; exact BitVec.or_zero.symm
    _ = v &&& (clampMask ||| ~~~clampMask) := BitVec.and_or_distrib_left.symm
    _ = v := by rw [BitVec.or_not_self, BitVec.and_allOnes]

/-- Settles O37: T is bounded by the widths, R by the clamp, and the product by both. -/
theorem productFitsTheDatapath : Obligations.ProductFitsTheDatapath := by
  intro len s legal _ clamped
  have sum : blockSum s.acc (chunkVal s.msg len.val) < 2 ^ 131 := blockSum_lt s.acc s.msg legal
  have factor : s.regR.toNat < 2 ^ 124 := clamp_eq_self_of_clamped clamped ▸ clamp_toNat_lt s.regR
  refine ⟨sum, ?_⟩
  calc
    _ < 2 ^ 131 * 2 ^ 124 := Nat.mul_lt_mul'' sum factor
    _ = 2 ^ 255 := (Nat.pow_add ..).symm

/-! ### The fold over the chunks -/

/-- HOST's words of a chunk in MSG, then the rule of P_BLOCK of its length (43_poly1305_multiplier.md R163). -/
def absorb (v : State) (c : Vector Word 4 × Fin 32) : State :=
  effectPBlock c.2.val { v with msg := c.1 }

/-- One chunk folded into `a` with the factor `r`, on numbers. -/
def foldChunk (r a : Nat) (c : Vector Word 4 × Fin 32) : Nat :=
  ((a + chunkVal c.1 c.2.val) * r) % polyP

theorem absorb_frame (v : State) (c : Vector Word 4 × Fin 32) :
    absorb v c = { v with acc := (absorb v c).acc, msg := c.1 } := rfl

theorem absorb_acc_toNat (v : State) (c : Vector Word 4 × Fin 32) :
    (absorb v c).acc.toNat = foldChunk v.regR.toNat v.acc.toNat c :=
  effectPBlock_acc_toNat c.2.val { v with msg := c.1 }

/-- The chunks of a message change ACC and MSG only. -/
theorem foldl_absorb_frame (chunks : List (Vector Word 4 × Fin 32)) (v : State) :
    chunks.foldl absorb v = { v with acc := (chunks.foldl absorb v).acc, msg := (chunks.foldl absorb v).msg } := by
  induction chunks generalizing v with
  | nil => rfl
  | cons c chunks ih => exact ih (absorb v c)

/-- ACC after the chunks of a message is their fold with the factor R, which no chunk changes. -/
theorem foldl_absorb_acc_toNat (chunks : List (Vector Word 4 × Fin 32)) (v : State) :
    (chunks.foldl absorb v).acc.toNat = chunks.foldl (foldChunk v.regR.toNat) v.acc.toNat := by
  induction chunks generalizing v with
  | nil => rfl
  | cons c chunks ih =>
    rw [List.foldl_cons, List.foldl_cons, ih, absorb_acc_toNat]
    rfl

theorem clamp_keyLow_toNat (pkey : Vector Word 8) :
    (clamp (keyLow pkey)).toNat =
      lew [pkey[0], pkey[1], pkey[2], pkey[3]] &&& 0x0ffffffc0ffffffc0ffffffc0fffffff := by
  rw [clamp, BitVec.toNat_and, keyLow_toNat]
  rfl

theorem effectPFinal_tag_toNat (s : State) : (effectPFinal s).tag.toNat = (s.acc.toNat + s.regS.toNat) % 2 ^ 128 := by
  rw [effectPFinal_tag, BitVec.toNat_ofNat]

/-- P_FINAL after the chunks of a message adds S, which no chunk changes, to their fold. -/
theorem effectPFinal_foldl_absorb_tag_toNat (chunks : List (Vector Word 4 × Fin 32)) (v : State) :
    (effectPFinal (chunks.foldl absorb v)).tag.toNat =
      (chunks.foldl (foldChunk v.regR.toNat) v.acc.toNat + v.regS.toNat) % 2 ^ 128 := by
  have regS : (chunks.foldl absorb v).regS = v.regS := by rw [foldl_absorb_frame]
  rw [effectPFinal_tag_toNat, foldl_absorb_acc_toNat, regS]

/-- Settles O32: P_KEY sets R, S and ACC = 0, the chunks fold into ACC, and P_FINAL adds S. -/
theorem macIsTheFoldOfItsChunks : Obligations.MacIsTheFoldOfItsChunks := by
  intro s rest chunks turn _
  have key_turn : mover s = .pe := mover_of_sched turn
  have final_turn : mover (chunks.foldl absorb (retirePE (effectPKey s))) = .pe := by
    rw [foldl_absorb_frame]
    exact mover_of_sched turn
  refine ⟨_, _, exec_pe_complete (c := .key) rfl key_turn, exec_pe_complete (c := .final) rfl final_turn, ?_⟩
  rw [← clamp_keyLow_toNat, ← keyHigh_toNat]
  exact effectPFinal_foldl_absorb_tag_toNat chunks (retirePE (effectPKey s))

end Sys2Proof.Machine
end

section
/-!
PROOFS. The finalizer of PE (44_poly1305_finalizer.md R170, R172): the tag as a number, and the tag of an empty message.
-/

namespace Sys2Proof.Machine

theorem exec_pFinal_complete {s : State} (turn : mover s = .pe) : exec .pFinal s = .next (retirePE (effectPFinal s)) :=
  exec_pe_complete (c := .final) rfl turn

/-- Settles O31: PE's own move ends in the rule of P_FINAL, whose sum wraps at the width of TAG. -/
theorem pFinalComputesTheTag : Obligations.PFinalComputesTheTag :=
  fun s turn => ⟨_, exec_pFinal_complete turn, effectPFinal_tag_toNat s, rfl⟩

/-- The rule of P_FINAL on an accumulator that holds no chunk: S, which has the width of TAG, verbatim. -/
theorem effectPFinal_tag_of_acc_zero {s : State} (empty : s.acc = 0) : (effectPFinal s).tag = s.regS := by
  have acc : s.acc.toNat = 0 := congrArg BitVec.toNat empty
  apply BitVec.eq_of_toNat_eq
  calc (effectPFinal s).tag.toNat
    _ = (s.acc.toNat + s.regS.toNat) % 2 ^ 128 := effectPFinal_tag_toNat s
    _ = s.regS.toNat % 2 ^ 128 := by rw [acc, Nat.zero_add]
    _ = s.regS.toNat := Nat.mod_eq_of_lt s.regS.isLt

/-- Settles O33: P_KEY leaves ACC = 0, S = the high half of the key, and the move with PE; neither command records an
error. -/
theorem emptyMessageTagIsS : Obligations.EmptyMessageTagIsS := by
  intro s rest turn
  have key_turn : mover s = .pe := mover_of_sched turn
  have final_turn : mover (retirePE (effectPKey s)) = .pe := mover_of_sched turn
  have tag : (effectPFinal (retirePE (effectPKey s))).tag = keyHigh s.pkey := effectPFinal_tag_of_acc_zero rfl
  exact ⟨_, _, exec_pe_complete (c := .key) rfl key_turn, exec_pFinal_complete final_turn, tag,
    (congrArg BitVec.toNat tag).trans (keyHigh_toNat s.pkey), rfl, rfl⟩

end Sys2Proof.Machine
end

section
/-!
PROOFS. The control commands (45_control.md R180, R181): CLRERR clears the error record, and SRST restores the reset state of
the core.
-/

namespace Sys2Proof.Machine

theorem encode_clrerr : encode .clrerr = 0x00000001 := rfl

theorem exec_clrerr (s : State) : exec .clrerr s = .next (clearErrors { s with cmd := encode .clrerr }) := rfl

/-- The word that SRST writes to CMD does not survive the reset. -/
theorem exec_srst (s : State) : exec .srst s = .next (coreReset s) := rfl

/-- The reset of the core is the state after reset, but for the fields that are not the core's (log 12). -/
theorem coreReset_eq_reset (s : State) :
    coreReset s = { State.reset with hosts := s.hosts, sched := s.sched, draws := s.draws } := rfl

/-- Settles O14: the rule of CLRERR, with its word written out. -/
theorem clrerrClearsTheErrorRecord : Obligations.ClrerrClearsTheErrorRecord := by
  intro s
  rw [exec_clrerr, encode_clrerr, clearErrors]

/-- Settles O16: SRST is the reset of the core, which is the reset state in every field of the core. -/
theorem srstLeavesTheResetState : Obligations.SrstLeavesTheResetState := by
  intro s
  rw [exec_srst, coreReset_eq_reset]

end Sys2Proof.Machine
end

section
/-!
PROOFS. Issue, acceptance and rejection (60_exceptions.md R200 to R209): what a HOST's write of a command word does, that an
accepted command stays until its engine moves, that the first error sticks, and that no step stops the machine.
-/

namespace Sys2Proof.Machine

/-! ### Acceptance and rejection of a legal command -/

theorem exec_ce_accepted {c : CECmd} {s : State} (wf : (ceInstr c).wellFormed = true) (other : mover s ≠ .ce)
    (idle : s.cbusy = false) : exec (ceInstr c) s = .next (acceptCE c s) := by
  rw [exec_ceInstr, ceCommand, (operandError_eq_none_iff _).mpr wf]
  simp [other, idle]

theorem exec_pe_accepted {c : PECmd} {s : State} (wf : (peInstr c).wellFormed = true) (other : mover s ≠ .pe)
    (idle : s.pbusy = false) : exec (peInstr c) s = .next (acceptPE c s) := by
  rw [exec_peInstr, peCommand, (operandError_eq_none_iff _).mpr wf]
  simp [other, idle]

theorem exec_ce_rejected {c : CECmd} {s : State} (wf : (ceInstr c).wellFormed = true) (other : mover s ≠ .ce)
    (busy : s.cbusy = true) : exec (ceInstr c) s = .next (reject .busy s) := by
  rw [exec_ceInstr, ceCommand, (operandError_eq_none_iff _).mpr wf]
  simp [other, busy]

theorem exec_pe_rejected {c : PECmd} {s : State} (wf : (peInstr c).wellFormed = true) (other : mover s ≠ .pe)
    (busy : s.pbusy = true) : exec (peInstr c) s = .next (reject .busy s) := by
  rw [exec_peInstr, peCommand, (operandError_eq_none_iff _).mpr wf]
  simp [other, busy]

/-- Settles O10: both clauses are the acceptance of a legal command. -/
theorem idleEngineAcceptsEveryLegalCommand : Obligations.IdleEngineAcceptsEveryLegalCommand :=
  fun _ => ⟨fun _ => exec_ce_accepted, fun _ => exec_pe_accepted⟩

/-- Settles O11: both clauses are the rejection of a legal command, whose code is 5. -/
theorem busyEngineRejectsTheCommand : Obligations.BusyEngineRejectsTheCommand :=
  fun _ => ⟨fun _ => exec_ce_rejected, fun _ => exec_pe_rejected⟩

/-! ### `Issue(v)` -/

theorem issue_of_error {v : Word} {e : ErrCode} (h : decode v = .error e) (s : State) : issue v s = .next (reject e s) := by
  rw [issue, h]

theorem issue_of_ok {v : Word} {i : Instr} (h : decode v = .ok i) (s : State) : issue v s = exec i s := by
  rw [issue, h]

/-- The word that an idle CE accepts stands in CMD: it is the encoding of its command (log 16). -/
theorem issue_ce_accepted {v : Word} {c : CECmd} {s : State} (h : decode v = .ok (ceInstr c)) (other : mover s ≠ .ce)
    (idle : s.cbusy = false) : issue v s = .next { s with cmd := v, cpend := some c, cbusy := true } := by
  obtain ⟨wf, rfl⟩ := decodedWordIsItsEncoding v _ h
  exact (issue_of_ok h s).trans (exec_ce_accepted wf other idle)

/-- The word that an idle PE accepts stands in CMD. -/
theorem issue_pe_accepted {v : Word} {c : PECmd} {s : State} (h : decode v = .ok (peInstr c)) (other : mover s ≠ .pe)
    (idle : s.pbusy = false) : issue v s = .next { s with cmd := v, ppend := some c, pbusy := true } := by
  obtain ⟨wf, rfl⟩ := decodedWordIsItsEncoding v _ h
  exact (issue_of_ok h s).trans (exec_pe_accepted wf other idle)

theorem issue_ce_rejected {v : Word} {c : CECmd} {s : State} (h : decode v = .ok (ceInstr c)) (other : mover s ≠ .ce)
    (busy : s.cbusy = true) : issue v s = .next (reject .busy s) :=
  (issue_of_ok h s).trans (exec_ce_rejected (decodedWordIsItsEncoding v _ h).1 other busy)

theorem issue_pe_rejected {v : Word} {c : PECmd} {s : State} (h : decode v = .ok (peInstr c)) (other : mover s ≠ .pe)
    (busy : s.pbusy = true) : issue v s = .next (reject .busy s) :=
  (issue_of_ok h s).trans (exec_pe_rejected (decodedWordIsItsEncoding v _ h).1 other busy)

theorem issue_clrerr {v : Word} (h : decode v = .ok .clrerr) (s : State) :
    issue v s = .next { s with cmd := v, err := 0, errmult := false } := by
  obtain ⟨-, rfl⟩ := decodedWordIsItsEncoding v _ h
  exact (issue_of_ok h s).trans (exec_clrerr s)

theorem issue_srst {v : Word} (h : decode v = .ok .srst) (s : State) : issue v s = .next (coreReset s) :=
  (issue_of_ok h s).trans (exec_srst s)

/-- The move of a HOST is no engine's. -/
theorem mover_ne_engine {s : State} {k : Nat} (turn : mover s = .host k) : mover s ≠ .ce ∧ mover s ≠ .pe := by
  simp [turn]

/-- Settles O9: the decoder's code, then each engine busy or idle, then the control commands. -/
theorem issueDecodesThenChecksBusyThenAccepts : Obligations.IssueDecodesThenChecksBusyThenAccepts := by
  intro s k v turn
  obtain ⟨not_ce, not_pe⟩ := mover_ne_engine turn
  exact ⟨fun e h => issue_of_error h s, fun c h => issue_ce_rejected h not_ce, fun c h => issue_pe_rejected h not_pe,
    fun c h => issue_ce_accepted h not_ce, fun c h => issue_pe_accepted h not_pe, fun h => issue_clrerr h s,
    fun h => issue_srst h s⟩

/-! ### The step of a CMD write -/

/-- A HOST's write to CMD issues the word; around it the step moves the HOST on and uses up the schedule's entry. -/
theorem step_cmd_write {s : State} {k : Nat} {w : Word} (turn : mover s = .host k) (next : nextOp k s = some (issueOp w)) :
    step s = onNext (fun t => tick (updateHost k HostState.advance t)) (issue w s) := by
  rw [step_access turn next, busAccess_write (admitted_regOffset .cmd), memWrite_cmd, onNext_onNext]

/-- Settles O6: the write issues the word, which is decoded or rejected. -/
theorem stepRunsTheCommandTheHostWrites : Obligations.StepRunsTheCommandTheHostWrites := by
  intro s k w turn next
  refine ⟨fun i h => ?_, fun e h => ?_⟩
  · rw [step_cmd_write turn next, issue_of_ok h]
  · rw [step_cmd_write turn next, issue_of_error h, onNext_next]

/-- The placed operation stands at the HOST's position. -/
theorem placeNext_getElem? (op : HostOp) (h : HostState) : (h.placeNext op).program[(h.placeNext op).pos]? = some op := by
  unfold HostState.placeNext
  split
  · next inside => exact List.getElem?_set_self inside
  · exact List.getElem?_concat_length

theorem nextOp_withFetchWord (s : State) (nbits w : Nat) :
    nextOp 0 (s.withFetchWord nbits w) = some (issueOp (BitVec.ofNat 32 (w % 2 ^ nbits))) := by
  unfold State.withFetchWord
  cases s.hosts with
  | nil => exact placeNext_getElem? _ _
  | cons h hs => exact placeNext_getElem? _ h

theorem decode_of_decodeTableWord {w : Nat} {i : Instr} (bound : w < 2 ^ 32) (h : decodeTableWord 32 w = some i) :
    decode (BitVec.ofNat 32 w) = .ok i := by
  have value : (BitVec.ofNat 32 w).toNat = w := Nat.mod_eq_of_lt bound
  rw [← value, decodeTableWord_toNat] at h
  cases hd : decode (BitVec.ofNat 32 w) with
  | error e => simp [hd, Except.toOption] at h
  | ok j => simpa [hd, Except.toOption] using h

/-- Settles O8: the placed operation is HOST 0's next, HOST 0 moves next, and its word decodes to the command. -/
theorem fetchWordIsTheNextCommand : Obligations.FetchWordIsTheNextCommand := by
  intro s w i bound h
  have next := nextOp_withFetchWord s 32 w
  rw [Nat.mod_eq_of_lt bound] at next
  rw [step_cmd_write (mover_of_sched rfl) next, issue_of_ok (decode_of_decodeTableWord bound h)]

/-! ### Accepted commands -/

/-- Settles O13: the first step is the acceptance, which leaves the engine's move next and the command in its slot. -/
theorem acceptedCommandIsRunByItsEngineNext : Obligations.AcceptedCommandIsRunByItsEngineNext := by
  intro s k v rest next
  refine ⟨fun c sched h idle => ?_, fun c sched h idle => ?_⟩
  · have turn : mover s = .host k := mover_of_sched sched
    have accepts := step_cmd_write turn next
    rw [issue_ce_accepted h (mover_ne_engine turn).1 idle, onNext_next] at accepts
    exact ⟨_, accepts, rfl, rfl, rfl, rfl,
      (stepRunsThePendingCommand _).1 c (mover_of_sched (congrArg List.tail sched)) rfl rfl⟩
  · have turn : mover s = .host k := mover_of_sched sched
    have accepts := step_cmd_write turn next
    rw [issue_pe_accepted h (mover_ne_engine turn).2 idle, onNext_next] at accepts
    exact ⟨_, accepts, rfl, rfl, rfl, rfl,
      (stepRunsThePendingCommand _).2 c (mover_of_sched (congrArg List.tail sched)) rfl rfl⟩

/-- Settles O57, by the cases of what a move can do to the core: an acceptance needs its engine idle, a completion is its
engine's move, and only reset empties a slot otherwise. -/
theorem acceptedCommandIsNeverCancelled : Obligations.AcceptedCommandIsNeverCancelled := by
  intro s t h
  obtain ⟨u, hosts, n, move, rfl, -⟩ := step_cases h
  cases move with
  | reset => exact ⟨fun _ _ _ => .inr (.inr rfl), fun _ _ _ => .inr (.inr rfl)⟩
  | ceAccepted c _ idle =>
    exact ⟨fun _ busy => absurd busy (by simp [idle]), fun _ busy pending => .inl ⟨busy, pending⟩⟩
  | peAccepted c _ idle =>
    exact ⟨fun _ busy pending => .inl ⟨busy, pending⟩, fun _ busy => absurd busy (by simp [idle])⟩
  | ceDone c _ _ _ turn =>
    rw [ceEffect_frame]
    exact ⟨fun _ _ _ => .inr (.inl turn), fun _ busy pending => .inl ⟨busy, pending⟩⟩
  | peDone c _ _ _ turn =>
    rw [peEffect_frame]
    exact ⟨fun _ busy pending => .inl ⟨busy, pending⟩, fun _ _ _ => .inr (.inl turn)⟩
  | _ => exact ⟨fun _ busy pending => .inl ⟨busy, pending⟩, fun _ busy pending => .inl ⟨busy, pending⟩⟩

/-! ### The error record -/

theorem reject_of_clear {s : State} (h : s.err = 0) (e : ErrCode) : reject e s = { s with err := e.code } := by
  rw [reject, errAfter_of_clear h, errmultAfter_of_clear h]

theorem reject_of_set {s : State} (h : s.err ≠ 0) (e : ErrCode) : reject e s = { s with errmult := true } := by
  rw [reject, errAfter_of_set h, errmultAfter_of_set h]

/-- Settles O50: a rejection with a clear and with a set record, and the codes as they are written. -/
theorem rejectionRecordsTheFirstCode : Obligations.RejectionRecordsTheFirstCode :=
  ⟨fun e _ => ⟨fun clear => reject_of_clear clear e, fun set => reject_of_set set e⟩, rfl, rfl, rfl, rfl, rfl, rfl⟩

/-- Settles O51, by the cases of what a move can do to the core: only a rejection writes the record, CLRERR and reset clear
it, and no other move touches it. -/
theorem firstErrorIsNeverOverwritten : Obligations.FirstErrorIsNeverOverwritten := by
  intro s t h recorded
  obtain ⟨u, hosts, n, move, rfl, -⟩ := step_cases h
  cases move with
  | rejected e =>
    rw [reject_of_set recorded]
    exact .inl ⟨rfl, fun _ => rfl⟩
  | cleared => exact .inr ⟨rfl, rfl⟩
  | reset => exact .inr ⟨rfl, rfl⟩
  | ceDone c =>
    rw [ceEffect_frame]
    exact .inl ⟨rfl, id⟩
  | peDone c =>
    rw [peEffect_frame]
    exact .inl ⟨rfl, id⟩
  | _ => exact .inl ⟨rfl, id⟩

/-- Settles O52: neither a command nor a move of an agent stops the machine. -/
theorem everyStepAnswersANextState : Obligations.EveryStepAnswersANextState :=
  ⟨step_answers, exec_answers⟩

end Sys2Proof.Machine
end

section
/-!
PROOFS. Reset (70_reset_and_hazards.md R230, R232): SRST and the reset input leave one state, with every entry of the core at
its reset value, and that state has the invariants.
-/

namespace Sys2Proof.Machine

theorem moveOf_resetInput (s : State) : moveOf .resetInput s = .next (coreReset s) := rfl

/-- Reset clears all four fields that STATUS shows. -/
theorem statusWord_coreReset (s : State) : statusWord (coreReset s) = 0 :=
  regValue_reset .status

/-- Settles O15: both are the reset of the core, which fills each array of registers with zeros. -/
theorem srstAndResetInputZeroEverything : Obligations.SrstAndResetInputZeroEverything := fun s =>
  have zeros {n : Nat} (i : Fin n) : (Vector.replicate n (0 : Word))[i] = 0 := Vector.getElem_replicate i.isLt
  ⟨coreReset s, exec_srst s, moveOf_resetInput s, rfl, rfl, rfl, rfl, rfl, rfl, rfl, rfl,
    zeros, rfl, zeros, zeros, zeros, zeros, zeros, rfl, rfl, rfl, rfl, statusWord_coreReset s⟩

/-- Settles O58: the reset of the core has the invariants in whatever state it comes, so in the reset state, which it
leaves as it is. -/
theorem resetStateSatisfiesTheInvariants : Obligations.ResetStateSatisfiesTheInvariants :=
  inv_coreReset State.reset

end Sys2Proof.Machine
end
